-- ==== Sys2Proof/Word.lean ====
section
/-! DEFINITION. The NORD-50's units of data: the 32-bit word (10_state.md R20), the double precision
word, the byte in which the model lists memory, and the 6-bit general register number (R21). -/

namespace Sys2Proof

/-- A word, "the basic storage unit, both in memory and in the central processing unit" (R20). -/
abbrev Word := BitVec 32

/-- A double precision word: two words, the left portion word in bits 63-32 (20_memory.md R63). -/
abbrev DWord := BitVec 64

/-- One byte of the model's memory list (20_memory.md R77: the machine itself names no byte). -/
abbrev Byte := BitVec 8

/-- The number of a general register GR_0 .. GR_63 (10_state.md R21). -/
abbrev Reg := BitVec 6

end Sys2Proof
end

