-- ==== Sys2Proof/Syntax.lean ====
section
/-! DEFINITION. The instructions of the NORD-50: one constructor of `Instr` per row of
spec/opcode_table.json, with the operand fields that the row leaves free (30_encoding.md R91 to R99).
A bit that the row's mask fixes is no field, so a form the table does not list cannot be written.
A parent row (RIO, SHR, SHD, LRO, IRO, FRO, IRS, FRS, DLR, DAR, DSK) has its sub-function fields as
operands; the mnemonics of section 5 (30_encoding.md R104) name settings of those fields. -/

namespace Sys2Proof

/-- The number of a floating register: F_n for `upper = false`, F_(32+n) for `upper = true`. These are
the X-bits of a floating designator `X Y X X X X` (10_state.md R28). -/
structure FReg where
  upper : Bool
  n : BitVec 4
  deriving DecidableEq, Repr

/-- A floating designator whose Y-bit is in the word but decides nothing (92_eei_decisions.md D12:
SHD, LDD, STD, and the sources of FRO and FRS). -/
structure FDesignator where
  reg : FReg
  y : Bool
  deriving DecidableEq, Repr

/-- The address fields I, X, B, D of a memory reference instruction (30_encoding.md R91). -/
structure MemRef where
  i : Bool
  x : BitVec 4
  b : BitVec 4
  d : BitVec 12
  deriving DecidableEq, Repr

/-- The two precisions: p = 23 and p = 55 (43_floating_numerics.md R320, R321). -/
inductive Precision where
  | single
  | double
  deriving DecidableEq, Repr

/-- The two external registers the manual lists (10_state.md R39): 2 is OR, 3 is RR. -/
inductive ExtReg where
  | overflow
  | remainder
  deriving DecidableEq, Repr

/-- The two forms of EXC (40_memory_reference.md R139): R = 0 executes the word at Ea, R = 1 executes
Ea itself. -/
inductive ExcForm where
  | memory
  | immediate
  deriving DecidableEq, Repr

/-- SM, the shift mode (41_inter_register.md R205). SM = 0 and SM = 1 both rotate. -/
inductive ShiftMode where
  | rotate
  | rotateAlt
  | arithmetic
  | logical
  deriving DecidableEq, Repr

/-- LO, the logical operation of LRO (41_inter_register.md R230). -/
inductive LogicOp where
  | zero
  | and
  | xor
  | or
  deriving DecidableEq, Repr

/-- AF of FRO, the four arithmetical functions (41_inter_register.md R259). -/
inductive ArithOp where
  | add
  | sub
  | mul
  | div
  deriving DecidableEq, Repr

/-- RL, a relation between a result and zero, or between a register and an argument
(41_inter_register.md R268, 42_argument.md R310). -/
inductive Relation where
  | ge
  | lt
  | eq
  | ne
  deriving DecidableEq, Repr

/-- LF, the logical function of DLR (42_argument.md R319). -/
inductive DirectLogic where
  | clear
  | xor
  | and
  | or
  deriving DecidableEq, Repr

/-- AF of DAR, the direct arithmetical functions (42_argument.md R305). -/
inductive DirectArith where
  | set
  | setNeg
  | add
  | sub
  deriving DecidableEq, Repr

/-- The instructions, one constructor per row of the opcode table. -/
inductive Instr where
  -- memory reference group (40_memory_reference.md)
  | rtj (r : Reg) (m : MemRef)
  | exc (form : ExcForm) (x b : BitVec 4) (d : BitVec 12)
  | min (r : Reg) (m : MemRef)
  | crg (r : Reg) (m : MemRef)
  | crl (r : Reg) (m : MemRef)
  | cre (r : Reg) (m : MemRef)
  | crd (r : Reg) (m : MemRef)
  | jrp (r : Reg) (m : MemRef)
  | jrn (r : Reg) (m : MemRef)
  | jrz (r : Reg) (m : MemRef)
  | jrf (r : Reg) (m : MemRef)
  | jpm (r : BitVec 4) (m : MemRef)
  | jnm (r : BitVec 4) (m : MemRef)
  | jzm (r : BitVec 4) (m : MemRef)
  | jfm (r : BitVec 4) (m : MemRef)
  | add (r : Reg) (m : MemRef)
  | sub (r : Reg) (m : MemRef)
  | and (r : Reg) (m : MemRef)
  | ldr (r : Reg) (m : MemRef)
  | adm (r : Reg) (m : MemRef)
  | fc21 (r : Reg) (m : MemRef)
  | xmr (r : Reg) (m : MemRef)
  | str (r : Reg) (m : MemRef)
  | mpy (r : Reg) (m : MemRef)
  | div (r : Reg) (m : MemRef)
  | ldd (fd : FDesignator) (m : MemRef)
  | std (fd : FDesignator) (m : MemRef)
  | fad (f : FReg) (m : MemRef)
  | fadd (f : FReg) (m : MemRef)
  | fsb (f : FReg) (m : MemRef)
  | fsbd (f : FReg) (m : MemRef)
  | fmu (f : FReg) (m : MemRef)
  | fmud (f : FReg) (m : MemRef)
  | fdv (f : FReg) (m : MemRef)
  | fdvd (f : FReg) (m : MemRef)
  -- inter-register group: monitor call and register input/output (41_inter_register.md R201 to R204)
  | stop (code : BitVec 18)
  | rio (write : Bool) (dr sra : Reg) (ext : ExtReg)
  | rin (dr unused : Reg) (ext : ExtReg)
  | rout (unused sra : Reg) (ext : ExtReg)
  -- shifts (R205 to R218)
  | shr (l r : Bool) (sm : ShiftMode) (dr sra : Reg) (sc : BitVec 5)
  | slr (dr sra : Reg) (sc : BitVec 5)
  | srr (dr sra : Reg) (sc : BitVec 5)
  | sla (dr sra : Reg) (sc : BitVec 5)
  | sra (dr sra : Reg) (sc : BitVec 5)
  | sll (dr sra : Reg) (sc : BitVec 5)
  | srl (dr sra : Reg) (sc : BitVec 5)
  | shd (l r : Bool) (sm : ShiftMode) (dfd srad : FDesignator) (sc : BitVec 6)
  | slrd (dfd srad : FDesignator) (sc : BitVec 6)
  | srrd (dfd srad : FDesignator) (sc : BitVec 6)
  | slad (dfd srad : FDesignator) (sc : BitVec 6)
  | srad (dfd srad : FDesignator) (sc : BitVec 6)
  | slld (dfd srad : FDesignator) (sc : BitVec 6)
  | srld (dfd srad : FDesignator) (sc : BitVec 6)
  -- bit instructions (R219 to R223)
  | bst (dr sra : Reg) (bn : BitVec 5)
  | bcm (dr sra : Reg) (bn : BitVec 5)
  | bcl (dr sra : Reg) (bn : BitVec 5)
  | bsz (dr sra : Reg) (bn : BitVec 5)
  | bso (dr sra : Reg) (bn : BitVec 5)
  -- conversions (R224 to R229)
  | fix (dr : Reg) (f : FReg)
  | fir (dr : Reg) (f : FReg)
  | fixd (dr : Reg) (f : FReg)
  | fird (dr : Reg) (f : FReg)
  | flo (f : FReg) (sra : Reg)
  | flod (f : FReg) (sra : Reg)
  -- logical register operations (R230 to R241)
  | lro (ca cb : Bool) (lo : LogicOp) (dr sra srb : Reg)
  | szr (dr sra srb : Reg)
  | rnd (dr sra srb : Reg)
  | rnda (dr sra srb : Reg)
  | rndb (dr sra srb : Reg)
  | rxo (dr sra srb : Reg)
  | rxoa (dr sra srb : Reg)
  | rxob (dr sra srb : Reg)
  | ror (dr sra srb : Reg)
  | rora (dr sra srb : Reg)
  | rorb (dr sra srb : Reg)
  | rfc11 (rsc : BitVec 4) (low : BitVec 18)
  -- integer arithmetic between registers (R253 to R258)
  | iroAddSub (sc ac : Bool) (subtract : Bool) (dr sra srb : Reg)
  | iroMulDiv (divide : Bool) (dr sra srb : Reg)
  | rad (dr sra srb : Reg)
  | rsb (dr sra srb : Reg)
  | rmu (dr sra srb : Reg)
  | rdv (dr sra srb : Reg)
  -- floating arithmetic between registers (R259 to R267)
  | fro (op : ArithOp) (p : Precision) (df : FReg) (sra srb : FDesignator)
  | raf (df : FReg) (sra srb : FDesignator)
  | rsf (df : FReg) (sra srb : FDesignator)
  | rmf (df : FReg) (sra srb : FDesignator)
  | rdf (df : FReg) (sra srb : FDesignator)
  | rafd (df : FReg) (sra srb : FDesignator)
  | rsfd (df : FReg) (sra srb : FDesignator)
  | rmfd (df : FReg) (sra srb : FDesignator)
  | rdfd (df : FReg) (sra srb : FDesignator)
  -- integer register skip (R268 to R276)
  | irs (rl : Relation) (subtract : Bool) (dr sra srb : Reg)
  | sgr (dr sra srb : Reg)
  | asg (dr sra srb : Reg)
  | sle (dr sra srb : Reg)
  | asl (dr sra srb : Reg)
  | seq (dr sra srb : Reg)
  | ase (dr sra srb : Reg)
  | sue (dr sra srb : Reg)
  | asu (dr sra srb : Reg)
  -- floating register skip (R277 to R293)
  | frs (rl : Relation) (subtract : Bool) (p : Precision) (df : FReg) (sra srb : FDesignator)
  | sgf (df : FReg) (sra srb : FDesignator)
  | asgf (df : FReg) (sra srb : FDesignator)
  | slf (df : FReg) (sra srb : FDesignator)
  | aslf (df : FReg) (sra srb : FDesignator)
  | sef (df : FReg) (sra srb : FDesignator)
  | asef (df : FReg) (sra srb : FDesignator)
  | suf (df : FReg) (sra srb : FDesignator)
  | asuf (df : FReg) (sra srb : FDesignator)
  | sgd (df : FReg) (sra srb : FDesignator)
  | agfd (df : FReg) (sra srb : FDesignator)
  | sld (df : FReg) (sra srb : FDesignator)
  | alfd (df : FReg) (sra srb : FDesignator)
  | sed (df : FReg) (sra srb : FDesignator)
  | aefd (df : FReg) (sra srb : FDesignator)
  | sud (df : FReg) (sra srb : FDesignator)
  | aufd (df : FReg) (sra srb : FDesignator)
  -- argument group (42_argument.md)
  | dlr (lf : DirectLogic) (dr : Reg) (a : BitVec 16)
  | dlrClear (dr : Reg) (a : BitVec 16)
  | xora (dr : Reg) (a : BitVec 16)
  | anda (dr : Reg) (a : BitVec 16)
  | ora (dr : Reg) (a : BitVec 16)
  | dar (af : DirectArith) (dr : Reg) (a : BitVec 16)
  | seta (dr : Reg) (a : BitVec 16)
  | seca (dr : Reg) (a : BitVec 16)
  | adda (dr : Reg) (a : BitVec 16)
  | adca (dr : Reg) (a : BitVec 16)
  | dsk (cm : Bool) (rl : Relation) (dr : Reg) (a : BitVec 16)
  | ddp (dr : Reg) (a : BitVec 16)
  | ddn (dr : Reg) (a : BitVec 16)
  | ddz (dr : Reg) (a : BitVec 16)
  | ddf (dr : Reg) (a : BitVec 16)
  | dsp (dr : Reg) (a : BitVec 16)
  | dsn (dr : Reg) (a : BitVec 16)
  | dsz (dr : Reg) (a : BitVec 16)
  | dsf (dr : Reg) (a : BitVec 16)
  deriving DecidableEq, Repr

/-- Why a word is no instruction of the table: the rows of 30_encoding.md R101 that the manual leaves
without a meaning. The two reserved codes (FC 21 and RFC 11) are rows of the table and decode. -/
inductive Undefined where
  /-- Fewer than four bytes were given to the decoder. -/
  | tooFewBytes
  /-- EXC with I = 1. -/
  | excIndirect
  /-- EXC with R of 2 or more. -/
  | excForm
  /-- JPM, JNM, JZM, JFM with R of 16 or more. -/
  | noModificationRegister
  /-- RFC = 0 with RSC not 0: not STOP. -/
  | stopSubcode
  /-- RIO with RSC of 2 or more. -/
  | rioSubcode
  /-- RIO with an external register other than 2 and 3. -/
  | externalRegister
  /-- SHR with SC of 32 or more. -/
  | shiftCount
  /-- RFC 4 to 7 with other RSC bits than those printed. -/
  | bitSubcode
  /-- A bit instruction with BN of 32 or more. -/
  | bitNumber
  /-- RFC 8 or 9 with other RSC bits than those printed. -/
  | convertSubcode
  /-- RFC 8 or 9 with bits 5-0 not 0. -/
  | convertLowBits
  /-- IRO multiply or divide with SCf or ACf. -/
  | carryWithMultiply
  /-- FRO with bits 26-25 not 0. -/
  | froSubcode
  /-- IRS with AF = 2 or 3. -/
  | irsFunction
  /-- FRS with AF = 2 or 3. -/
  | frsFunction
  deriving DecidableEq, Repr

end Sys2Proof
end

