-- ==== Sys2Proof/WellFormed.lean ====
section
/-! DEFINITION. Which terms of `Instr` are the form in which the machine's words read.

Field ranges (SC <= 31, BN <= 31, R <= 15 for JxM, R <= 1 and I = 0 for EXC, external register 2 or
3, AF <= 1 of IRS and FRS, 30_encoding.md R101) are in the types of the fields. What is left to check
is the choice between a parent row and a mnemonic of 30_encoding.md R104: both rows of the table match
the same words, and the well-formed term is the one of the more specific row. A parent term is
therefore well-formed only at a setting that has no mnemonic (log 35). -/

namespace Sys2Proof

/-- SHR and SHD settings with no mnemonic: no direction, both directions, or SM = 1. -/
def shiftUnnamed (l r : Bool) (sm : ShiftMode) : Bool :=
  l == r || sm == .rotateAlt

/-- LRO settings with no mnemonic (41_inter_register.md R241). -/
def logicUnnamed (ca cb : Bool) (lo : LogicOp) : Bool :=
  (ca && cb) || (lo == .zero && (ca || cb))

/-- IRO add and subtract settings with no mnemonic: those with SCf or ACf (30_encoding.md R104). -/
def carryUnnamed (sc ac : Bool) : Bool :=
  sc || ac

/-- The check. Every setting of RIO, IRO multiply and divide, FRO, IRS, FRS, DLR, DAR and DSK has a
mnemonic row of its own, so these parents are never the form a word decodes to. -/
def Instr.wellFormed : Instr → Bool
  | .rio .. => false
  | .shr l r sm _ _ _ => shiftUnnamed l r sm
  | .shd l r sm _ _ _ => shiftUnnamed l r sm
  | .lro ca cb lo _ _ _ => logicUnnamed ca cb lo
  | .iroAddSub sc ac _ _ _ _ => carryUnnamed sc ac
  | .iroMulDiv .. => false
  | .fro .. => false
  | .irs .. => false
  | .frs .. => false
  | .dlr .. => false
  | .dar .. => false
  | .dsk .. => false
  | _ => true

end Sys2Proof
end

