-- ==== Sys2Proof/Decode.lean ====
section
/-! DEFINITION. The decoder, total on any word and any bytes and rejecting by name, and after it the
encoder, both written from the layouts and code maps of 30_encoding.md (R90 to R100). A word decodes to
its most specific row of spec/opcode_table.json (log 35): first to the parent row, then, where one of
the mnemonics of R104 names that setting, to the mnemonic (`Instr.canon`). -/

namespace Sys2Proof

/-! ## Words and bytes -/

/-- The four bytes of a word as the model lays them out, most significant first (log 2). -/
def wordBytes (w : Word) : List Byte :=
  [w.extractLsb' 24 8, w.extractLsb' 16 8, w.extractLsb' 8 8, w.extractLsb' 0 8]

/-- The word whose four bytes are given, most significant first (log 2). -/
def wordOfBytes (b3 b2 b1 b0 : Byte) : Word :=
  b3 ++ b2 ++ b1 ++ b0

/-! ## Sub-fields -/

/-- SM of SHR and SHD (41_inter_register.md R205). -/
def ShiftMode.ofBits (v : BitVec 2) : ShiftMode :=
  match v with
  | 0#2 => .rotate
  | 1#2 => .rotateAlt
  | 2#2 => .arithmetic
  | _ => .logical

/-- SM as it stands in the word. -/
def ShiftMode.bits : ShiftMode → BitVec 2
  | .rotate => 0
  | .rotateAlt => 1
  | .arithmetic => 2
  | .logical => 3

/-- LO of LRO (41_inter_register.md R230). -/
def LogicOp.ofBits (v : BitVec 2) : LogicOp :=
  match v with
  | 0#2 => .zero
  | 1#2 => .and
  | 2#2 => .xor
  | _ => .or

/-- LO as it stands in the word. -/
def LogicOp.bits : LogicOp → BitVec 2
  | .zero => 0
  | .and => 1
  | .xor => 2
  | .or => 3

/-- AF of FRO (41_inter_register.md R259). -/
def ArithOp.ofBits (v : BitVec 2) : ArithOp :=
  match v with
  | 0#2 => .add
  | 1#2 => .sub
  | 2#2 => .mul
  | _ => .div

/-- AF of FRO as it stands in the word. -/
def ArithOp.bits : ArithOp → BitVec 2
  | .add => 0
  | .sub => 1
  | .mul => 2
  | .div => 3

/-- RL (41_inter_register.md R268, 42_argument.md R310). -/
def Relation.ofBits (v : BitVec 2) : Relation :=
  match v with
  | 0#2 => .ge
  | 1#2 => .lt
  | 2#2 => .eq
  | _ => .ne

/-- RL as it stands in the word. -/
def Relation.bits : Relation → BitVec 2
  | .ge => 0
  | .lt => 1
  | .eq => 2
  | .ne => 3

/-- LF of DLR (42_argument.md R319). -/
def DirectLogic.ofBits (v : BitVec 2) : DirectLogic :=
  match v with
  | 0#2 => .clear
  | 1#2 => .xor
  | 2#2 => .and
  | _ => .or

/-- LF as it stands in the word. -/
def DirectLogic.bits : DirectLogic → BitVec 2
  | .clear => 0
  | .xor => 1
  | .and => 2
  | .or => 3

/-- AF of DAR (42_argument.md R305). -/
def DirectArith.ofBits (v : BitVec 2) : DirectArith :=
  match v with
  | 0#2 => .set
  | 1#2 => .setNeg
  | 2#2 => .add
  | _ => .sub

/-- AF of DAR as it stands in the word. -/
def DirectArith.bits : DirectArith → BitVec 2
  | .set => 0
  | .setNeg => 1
  | .add => 2
  | .sub => 3

/-- The Y-bit: 1 is double precision (10_state.md R28). -/
def Precision.ofBit (y : Bool) : Precision :=
  match y with
  | false => .single
  | true => .double

/-- The Y-bit as it stands in the word. -/
def Precision.bit : Precision → Bool
  | .single => false
  | .double => true

/-- The X-bits of a floating designator `X Y X X X X` (10_state.md R28). -/
def FReg.ofBits (v : BitVec 6) : FReg :=
  ⟨v.getLsbD 5, v.extractLsb' 0 4⟩

/-- A floating designator with the given Y-bit (10_state.md R28). -/
def FReg.bits (f : FReg) (y : Bool) : BitVec 6 :=
  BitVec.ofBool f.upper ++ BitVec.ofBool y ++ f.n

/-- A designator whose Y-bit decides nothing. -/
def FDesignator.ofBits (v : BitVec 6) : FDesignator :=
  ⟨FReg.ofBits v, v.getLsbD 4⟩

/-- The designator as it stands in the word. -/
def FDesignator.bits (d : FDesignator) : BitVec 6 :=
  d.reg.bits d.y

/-- The external register number (10_state.md R39): 2 is OR, 3 is RR, no other is described. -/
def ExtReg.ofBits (v : BitVec 6) : Option ExtReg :=
  match v with
  | 2#6 => some .overflow
  | 3#6 => some .remainder
  | _ => none

/-- EXT.REG as it stands in the word. -/
def ExtReg.bits : ExtReg → BitVec 6
  | .overflow => 2
  | .remainder => 3

/-! ## The fields of a word -/

/-- FC, IW[22:18] (30_encoding.md R91). -/
def fieldFC (w : Word) : BitVec 5 := w.extractLsb' 18 5

/-- IW[17:12]: R, F, FD of a memory reference, DR of an inter-register instruction (R91, R94). -/
def fieldR (w : Word) : BitVec 6 := w.extractLsb' 12 6

/-- IW[11:6]: SRA (R94). -/
def fieldSRA (w : Word) : BitVec 6 := w.extractLsb' 6 6

/-- IW[5:0]: SRB, SC, BN, EXT.REG (R94, R96). -/
def fieldSRB (w : Word) : BitVec 6 := w.extractLsb' 0 6

/-- RFC, IW[30:27] (R94). -/
def fieldRFC (w : Word) : BitVec 4 := w.extractLsb' 27 4

/-- RSC, IW[26:23] (R94). -/
def fieldRSC (w : Word) : BitVec 4 := w.extractLsb' 23 4

/-- IW[24:23]: SM, LO, AF (R98). -/
def fieldLow2 (w : Word) : BitVec 2 := w.extractLsb' 23 2

/-- IW[26:25]: RL of IRS and FRS (R98). -/
def fieldHigh2 (w : Word) : BitVec 2 := w.extractLsb' 25 2

/-- IW[17:16]: ASF (R95). -/
def fieldASF (w : Word) : BitVec 2 := w.extractLsb' 16 2

/-- IW[28:23]: DR of an argument instruction (R95). -/
def fieldArgDR (w : Word) : BitVec 6 := w.extractLsb' 23 6

/-- IW[15:0]: A (R95). -/
def fieldA (w : Word) : BitVec 16 := w.extractLsb' 0 16

/-- I, X, B, D of a memory reference (R91). -/
def fieldMem (w : Word) : MemRef :=
  { i := w.getLsbD 31, x := w.extractLsb' 27 4, b := w.extractLsb' 23 4, d := w.extractLsb' 0 12 }

/-! ## Decoding -/

/-- EXC: I = 0 and R <= 1 (30_encoding.md R101, 40_memory_reference.md R139). -/
def decodeExc (w : Word) : Except Undefined Instr :=
  let m := fieldMem w
  if m.i then .error .excIndirect
  else match fieldR w with
    | 0#6 => .ok (.exc .memory m.x m.b m.d)
    | 1#6 => .ok (.exc .immediate m.x m.b m.d)
    | _ => .error .excForm

/-- JPM, JNM, JZM, JFM: R <= 15 (30_encoding.md R101). -/
def decodeModify (w : Word) (mk : BitVec 4 → MemRef → Instr) : Except Undefined Instr :=
  if fieldR w < 16#6 then .ok (mk (w.extractLsb' 12 4) (fieldMem w))
  else .error .noModificationRegister

/-- FC 28 to 31: the Y-bit IW[16] chooses the precision (30_encoding.md R97). -/
def decodeFloat (w : Word) (single double : FReg → MemRef → Instr) : Instr :=
  if w.getLsbD 16 then double (FReg.ofBits (fieldR w)) (fieldMem w)
  else single (FReg.ofBits (fieldR w)) (fieldMem w)

/-- The memory reference group, FC 1 to 31 (30_encoding.md R97). FC 0 does not come here. -/
def decodeMemory (w : Word) : Except Undefined Instr :=
  match fieldFC w with
  | 1#5 => .ok (.rtj (fieldR w) (fieldMem w))
  | 2#5 => decodeExc w
  | 3#5 => .ok (.min (fieldR w) (fieldMem w))
  | 4#5 => .ok (.crg (fieldR w) (fieldMem w))
  | 5#5 => .ok (.crl (fieldR w) (fieldMem w))
  | 6#5 => .ok (.cre (fieldR w) (fieldMem w))
  | 7#5 => .ok (.crd (fieldR w) (fieldMem w))
  | 8#5 => .ok (.jrp (fieldR w) (fieldMem w))
  | 9#5 => .ok (.jrn (fieldR w) (fieldMem w))
  | 10#5 => .ok (.jrz (fieldR w) (fieldMem w))
  | 11#5 => .ok (.jrf (fieldR w) (fieldMem w))
  | 12#5 => decodeModify w .jpm
  | 13#5 => decodeModify w .jnm
  | 14#5 => decodeModify w .jzm
  | 15#5 => decodeModify w .jfm
  | 16#5 => .ok (.add (fieldR w) (fieldMem w))
  | 17#5 => .ok (.sub (fieldR w) (fieldMem w))
  | 18#5 => .ok (.and (fieldR w) (fieldMem w))
  | 19#5 => .ok (.ldr (fieldR w) (fieldMem w))
  | 20#5 => .ok (.adm (fieldR w) (fieldMem w))
  | 21#5 => .ok (.fc21 (fieldR w) (fieldMem w))
  | 22#5 => .ok (.xmr (fieldR w) (fieldMem w))
  | 23#5 => .ok (.str (fieldR w) (fieldMem w))
  | 24#5 => .ok (.mpy (fieldR w) (fieldMem w))
  | 25#5 => .ok (.div (fieldR w) (fieldMem w))
  | 26#5 => .ok (.ldd (FDesignator.ofBits (fieldR w)) (fieldMem w))
  | 27#5 => .ok (.std (FDesignator.ofBits (fieldR w)) (fieldMem w))
  | 28#5 => .ok (decodeFloat w .fad .fadd)
  | 29#5 => .ok (decodeFloat w .fsb .fsbd)
  | 30#5 => .ok (decodeFloat w .fmu .fmud)
  | _ => .ok (decodeFloat w .fdv .fdvd)

/-- RIO: RSC = 000W, EXT.REG 2 or 3 (41_inter_register.md R202). -/
def decodeRio (w : Word) : Except Undefined Instr :=
  if w.extractLsb' 24 3 = 0#3 then
    match ExtReg.ofBits (fieldSRB w) with
    | some e => .ok (.rio (w.getLsbD 23) (fieldR w) (fieldSRA w) e)
    | none => .error .externalRegister
  else .error .rioSubcode

/-- SHR: SC <= 31 (41_inter_register.md R205). -/
def decodeShr (w : Word) : Except Undefined Instr :=
  if w.getLsbD 5 then .error .shiftCount
  else .ok (.shr (w.getLsbD 26) (w.getLsbD 25) (ShiftMode.ofBits (fieldLow2 w)) (fieldR w)
    (fieldSRA w) (w.extractLsb' 0 5))

/-- A bit instruction: the printed RSC bits, BN <= 31 (41_inter_register.md section 4). -/
def decodeBit (w : Word) (rsc : BitVec 4) (mk : Reg → Reg → BitVec 5 → Instr) :
    Except Undefined Instr :=
  if fieldRSC w = rsc then
    if w.getLsbD 5 then .error .bitNumber
    else .ok (mk (fieldR w) (fieldSRA w) (w.extractLsb' 0 5))
  else .error .bitSubcode

/-- RFC 4 holds two instructions, told apart by RSC bit 23 (30_encoding.md R98). -/
def decodeSetComplement (w : Word) : Except Undefined Instr :=
  if w.getLsbD 23 then decodeBit w 0b1101#4 .bcm else decodeBit w 0b1100#4 .bst

/-- FIX, FIR, FIXD, FIRD: RSC = Rd 000, IW[5:0] = 0, precision by IW[10] (30_encoding.md R98). -/
def decodeFix (w : Word) : Except Undefined Instr :=
  if w.extractLsb' 23 3 = 0#3 then
    if fieldSRB w = 0#6 then
      let f := FReg.ofBits (fieldSRA w)
      .ok (match w.getLsbD 26, w.getLsbD 10 with
        | false, false => .fix (fieldR w) f
        | true, false => .fir (fieldR w) f
        | false, true => .fixd (fieldR w) f
        | true, true => .fird (fieldR w) f)
    else .error .convertLowBits
  else .error .convertSubcode

/-- FLO, FLOD: RSC = 0010, IW[5:0] = 0, precision by IW[16] (30_encoding.md R98). -/
def decodeFlo (w : Word) : Except Undefined Instr :=
  if fieldRSC w = 0b0010#4 then
    if fieldSRB w = 0#6 then
      let f := FReg.ofBits (fieldR w)
      .ok (if w.getLsbD 16 then .flod f (fieldSRA w) else .flo f (fieldSRA w))
    else .error .convertLowBits
  else .error .convertSubcode

/-- IRO: SCf, ACf only with add and subtract (41_inter_register.md R253, R254). -/
def decodeIro (w : Word) : Except Undefined Instr :=
  if w.getLsbD 24 then
    if fieldHigh2 w = 0#2 then
      .ok (.iroMulDiv (w.getLsbD 23) (fieldR w) (fieldSRA w) (fieldSRB w))
    else .error .carryWithMultiply
  else .ok (.iroAddSub (w.getLsbD 26) (w.getLsbD 25) (w.getLsbD 23) (fieldR w) (fieldSRA w)
    (fieldSRB w))

/-- FRO: RSC = 00 AF (41_inter_register.md R259). -/
def decodeFro (w : Word) : Except Undefined Instr :=
  if fieldHigh2 w = 0#2 then
    .ok (.fro (ArithOp.ofBits (fieldLow2 w)) (Precision.ofBit (w.getLsbD 16))
      (FReg.ofBits (fieldR w)) (FDesignator.ofBits (fieldSRA w)) (FDesignator.ofBits (fieldSRB w)))
  else .error .froSubcode

/-- IRS: AF <= 1 (41_inter_register.md R268). -/
def decodeIrs (w : Word) : Except Undefined Instr :=
  if w.getLsbD 24 then .error .irsFunction
  else .ok (.irs (Relation.ofBits (fieldHigh2 w)) (w.getLsbD 23) (fieldR w) (fieldSRA w)
    (fieldSRB w))

/-- FRS: AF <= 1 (41_inter_register.md R277). -/
def decodeFrs (w : Word) : Except Undefined Instr :=
  if w.getLsbD 24 then .error .frsFunction
  else .ok (.frs (Relation.ofBits (fieldHigh2 w)) (w.getLsbD 23) (Precision.ofBit (w.getLsbD 16))
    (FReg.ofBits (fieldR w)) (FDesignator.ofBits (fieldSRA w)) (FDesignator.ofBits (fieldSRB w)))

/-- The inter-register group by RFC (30_encoding.md R98). -/
def decodeInterRegister (w : Word) : Except Undefined Instr :=
  match fieldRFC w with
  | 0#4 =>
    if fieldRSC w = 0#4 then .ok (.stop (w.extractLsb' 0 18)) else .error .stopSubcode
  | 1#4 => decodeRio w
  | 2#4 => decodeShr w
  | 3#4 =>
    .ok (.shd (w.getLsbD 26) (w.getLsbD 25) (ShiftMode.ofBits (fieldLow2 w))
      (FDesignator.ofBits (fieldR w)) (FDesignator.ofBits (fieldSRA w)) (fieldSRB w))
  | 4#4 => decodeSetComplement w
  | 5#4 => decodeBit w 0b1100#4 .bcl
  | 6#4 => decodeBit w 0b1100#4 .bsz
  | 7#4 => decodeBit w 0b1100#4 .bso
  | 8#4 => decodeFix w
  | 9#4 => decodeFlo w
  | 10#4 =>
    .ok (.lro (w.getLsbD 26) (w.getLsbD 25) (LogicOp.ofBits (fieldLow2 w)) (fieldR w) (fieldSRA w)
      (fieldSRB w))
  | 11#4 => .ok (.rfc11 (fieldRSC w) (w.extractLsb' 0 18))
  | 12#4 => decodeIro w
  | 13#4 => decodeFro w
  | 14#4 => decodeIrs w
  | _ => decodeFrs w

/-- The argument group by IW[30:29] (30_encoding.md R99): every word of it is defined. -/
def decodeArgument (w : Word) : Instr :=
  if w.getLsbD 30 then
    .dsk (w.getLsbD 29) (Relation.ofBits (fieldASF w)) (fieldArgDR w) (fieldA w)
  else if w.getLsbD 29 then
    .dar (DirectArith.ofBits (fieldASF w)) (fieldArgDR w) (fieldA w)
  else
    .dlr (DirectLogic.ofBits (fieldASF w)) (fieldArgDR w) (fieldA w)

/-- The primary (or reserved) row of the table that a word matches (30_encoding.md R90). -/
def decodeParent (w : Word) : Except Undefined Instr :=
  if fieldFC w = 0#5 then
    if w.getLsbD 31 then .ok (decodeArgument w) else decodeInterRegister w
  else decodeMemory w

/-- The mnemonic of SHR at a setting (30_encoding.md R104). -/
def canonShr (l r : Bool) (sm : ShiftMode) (dr sra : Reg) (sc : BitVec 5) : Instr :=
  match l, r, sm with
  | true, false, .rotate => .slr dr sra sc
  | false, true, .rotate => .srr dr sra sc
  | true, false, .arithmetic => .sla dr sra sc
  | false, true, .arithmetic => .sra dr sra sc
  | true, false, .logical => .sll dr sra sc
  | false, true, .logical => .srl dr sra sc
  | _, _, _ => .shr l r sm dr sra sc

/-- The mnemonic of SHD at a setting (30_encoding.md R104). -/
def canonShd (l r : Bool) (sm : ShiftMode) (dfd srad : FDesignator) (sc : BitVec 6) : Instr :=
  match l, r, sm with
  | true, false, .rotate => .slrd dfd srad sc
  | false, true, .rotate => .srrd dfd srad sc
  | true, false, .arithmetic => .slad dfd srad sc
  | false, true, .arithmetic => .srad dfd srad sc
  | true, false, .logical => .slld dfd srad sc
  | false, true, .logical => .srld dfd srad sc
  | _, _, _ => .shd l r sm dfd srad sc

/-- The mnemonic of LRO at a setting (30_encoding.md R104). -/
def canonLro (ca cb : Bool) (lo : LogicOp) (dr sra srb : Reg) : Instr :=
  match ca, cb, lo with
  | false, false, .zero => .szr dr sra srb
  | false, false, .and => .rnd dr sra srb
  | true, false, .and => .rnda dr sra srb
  | false, true, .and => .rndb dr sra srb
  | false, false, .xor => .rxo dr sra srb
  | true, false, .xor => .rxoa dr sra srb
  | false, true, .xor => .rxob dr sra srb
  | false, false, .or => .ror dr sra srb
  | true, false, .or => .rora dr sra srb
  | false, true, .or => .rorb dr sra srb
  | _, _, _ => .lro ca cb lo dr sra srb

/-- The mnemonic of IRO add and subtract at a setting (30_encoding.md R104). -/
def canonAddSub (sc ac subtract : Bool) (dr sra srb : Reg) : Instr :=
  match sc, ac, subtract with
  | false, false, false => .rad dr sra srb
  | false, false, true => .rsb dr sra srb
  | _, _, _ => .iroAddSub sc ac subtract dr sra srb

/-- The mnemonic of FRO at a setting (30_encoding.md R104). -/
def canonFro (op : ArithOp) (p : Precision) (df : FReg) (sra srb : FDesignator) : Instr :=
  match op, p with
  | .add, .single => .raf df sra srb
  | .sub, .single => .rsf df sra srb
  | .mul, .single => .rmf df sra srb
  | .div, .single => .rdf df sra srb
  | .add, .double => .rafd df sra srb
  | .sub, .double => .rsfd df sra srb
  | .mul, .double => .rmfd df sra srb
  | .div, .double => .rdfd df sra srb

/-- The mnemonic of IRS at a setting (30_encoding.md R104). -/
def canonIrs (rl : Relation) (subtract : Bool) (dr sra srb : Reg) : Instr :=
  match rl, subtract with
  | .ge, true => .sgr dr sra srb
  | .ge, false => .asg dr sra srb
  | .lt, true => .sle dr sra srb
  | .lt, false => .asl dr sra srb
  | .eq, true => .seq dr sra srb
  | .eq, false => .ase dr sra srb
  | .ne, true => .sue dr sra srb
  | .ne, false => .asu dr sra srb

/-- The mnemonic of FRS at a setting (30_encoding.md R104). -/
def canonFrs (rl : Relation) (subtract : Bool) (p : Precision) (df : FReg)
    (sra srb : FDesignator) : Instr :=
  match rl, subtract, p with
  | .ge, true, .single => .sgf df sra srb
  | .ge, false, .single => .asgf df sra srb
  | .lt, true, .single => .slf df sra srb
  | .lt, false, .single => .aslf df sra srb
  | .eq, true, .single => .sef df sra srb
  | .eq, false, .single => .asef df sra srb
  | .ne, true, .single => .suf df sra srb
  | .ne, false, .single => .asuf df sra srb
  | .ge, true, .double => .sgd df sra srb
  | .ge, false, .double => .agfd df sra srb
  | .lt, true, .double => .sld df sra srb
  | .lt, false, .double => .alfd df sra srb
  | .eq, true, .double => .sed df sra srb
  | .eq, false, .double => .aefd df sra srb
  | .ne, true, .double => .sud df sra srb
  | .ne, false, .double => .aufd df sra srb

/-- The mnemonic of DLR at a setting (30_encoding.md R99). -/
def canonDlr (lf : DirectLogic) (dr : Reg) (a : BitVec 16) : Instr :=
  match lf with
  | .clear => .dlrClear dr a
  | .xor => .xora dr a
  | .and => .anda dr a
  | .or => .ora dr a

/-- The mnemonic of DAR at a setting (30_encoding.md R99). -/
def canonDar (af : DirectArith) (dr : Reg) (a : BitVec 16) : Instr :=
  match af with
  | .set => .seta dr a
  | .setNeg => .seca dr a
  | .add => .adda dr a
  | .sub => .adca dr a

/-- The mnemonic of DSK at a setting (30_encoding.md R99). -/
def canonDsk (cm : Bool) (rl : Relation) (dr : Reg) (a : BitVec 16) : Instr :=
  match cm, rl with
  | false, .ge => .ddp dr a
  | false, .lt => .ddn dr a
  | false, .eq => .ddz dr a
  | false, .ne => .ddf dr a
  | true, .ge => .dsp dr a
  | true, .lt => .dsn dr a
  | true, .eq => .dsz dr a
  | true, .ne => .dsf dr a

/-- The most specific row for an instruction: a parent at a setting with a mnemonic becomes that
mnemonic, and every other instruction stays as it is (30_encoding.md R104, R106; log 35). -/
def Instr.canon : Instr → Instr
  | .rio false dr s e => .rin dr s e
  | .rio true dr s e => .rout dr s e
  | .shr l r sm dr s sc => canonShr l r sm dr s sc
  | .shd l r sm dfd s sc => canonShd l r sm dfd s sc
  | .lro ca cb lo dr s t => canonLro ca cb lo dr s t
  | .iroAddSub sc ac sb dr s t => canonAddSub sc ac sb dr s t
  | .iroMulDiv false dr s t => .rmu dr s t
  | .iroMulDiv true dr s t => .rdv dr s t
  | .fro op p df s t => canonFro op p df s t
  | .irs rl sb dr s t => canonIrs rl sb dr s t
  | .frs rl sb p df s t => canonFrs rl sb p df s t
  | .dlr lf dr a => canonDlr lf dr a
  | .dar af dr a => canonDar af dr a
  | .dsk cm rl dr a => canonDsk cm rl dr a
  | i => i

/-- The instruction a word is, or the name of the reason why it is none (30_encoding.md R90 to R101). -/
def decodeWord (w : Word) : Except Undefined Instr :=
  match decodeParent w with
  | .ok i => .ok i.canon
  | .error u => .error u

/-- The instruction at the head of a list of bytes, and the bytes after it. -/
def decode : List Byte → Except Undefined (Instr × List Byte)
  | b3 :: b2 :: b1 :: b0 :: rest =>
    match decodeWord (wordOfBytes b3 b2 b1 b0) with
    | .ok i => .ok (i, rest)
    | .error u => .error u
  | _ => .error .tooFewBytes

/-- What the decoder reads from a table word: the word laid out in memory's byte order, decoded. -/
def decodeTableWord (nbits w : Nat) : Option Instr :=
  match decode (wordBytes (BitVec.ofNat 32 (w % 2 ^ nbits))) with
  | .ok (i, _) => some i
  | .error _ => none

/-! ## Encoding -/

/-- Format MR (30_encoding.md R91). -/
def encodeMR (fc : BitVec 5) (r : BitVec 6) (m : MemRef) : Word :=
  BitVec.ofBool m.i ++ m.x ++ m.b ++ fc ++ r ++ m.d

/-- Format IR (30_encoding.md R94). -/
def encodeIR (rfc rsc : BitVec 4) (dr sra srb : BitVec 6) : Word :=
  0#1 ++ rfc ++ rsc ++ 0#5 ++ dr ++ sra ++ srb

/-- Format IR with bits 17-0 as one field: the monitor code of STOP (R96), the open bits of RFC 11. -/
def encodeIR18 (rfc rsc : BitVec 4) (low : BitVec 18) : Word :=
  0#1 ++ rfc ++ rsc ++ 0#5 ++ low

/-- Format AR (30_encoding.md R95). -/
def encodeAR (afc : BitVec 2) (asf : BitVec 2) (dr : Reg) (a : BitVec 16) : Word :=
  1#1 ++ afc ++ dr ++ 0#5 ++ asf ++ a

/-- RSC from two flags and a two-bit sub-field (30_encoding.md R98). -/
def rscFlags (hi lo : Bool) (two : BitVec 2) : BitVec 4 :=
  BitVec.ofBool hi ++ BitVec.ofBool lo ++ two

/-- RSC = RL AF (30_encoding.md R98), AF being 0 or 1. -/
def rscRelation (rl : Relation) (subtract : Bool) : BitVec 4 :=
  rl.bits ++ (0#1 ++ BitVec.ofBool subtract)

/-- RIO (41_inter_register.md R202). -/
def encodeRio (write : Bool) (dr sra : Reg) (e : ExtReg) : Word :=
  encodeIR 1 (0#3 ++ BitVec.ofBool write) dr sra e.bits

/-- SHR (R205). -/
def encodeShr (l r : Bool) (sm : ShiftMode) (dr sra : Reg) (sc : BitVec 5) : Word :=
  encodeIR 2 (rscFlags l r sm.bits) dr sra (0#1 ++ sc)

/-- SHD (R212). -/
def encodeShd (l r : Bool) (sm : ShiftMode) (dfd srad : FDesignator) (sc : BitVec 6) : Word :=
  encodeIR 3 (rscFlags l r sm.bits) dfd.bits srad.bits sc

/-- A bit instruction (R219 to R223). -/
def encodeBit (rfc rsc : BitVec 4) (dr sra : Reg) (bn : BitVec 5) : Word :=
  encodeIR rfc rsc dr sra (0#1 ++ bn)

/-- LRO (R230). -/
def encodeLro (ca cb : Bool) (lo : LogicOp) (dr sra srb : Reg) : Word :=
  encodeIR 10 (rscFlags ca cb lo.bits) dr sra srb

/-- IRO (R253): AF is 0 or 1 for add and subtract, 2 or 3 for multiply and divide. -/
def encodeIro (sc ac high low : Bool) (dr sra srb : Reg) : Word :=
  encodeIR 12 (rscFlags sc ac (BitVec.ofBool high ++ BitVec.ofBool low)) dr sra srb

/-- FRO (R259). -/
def encodeFro (op : ArithOp) (p : Precision) (df : FReg) (sra srb : FDesignator) : Word :=
  encodeIR 13 (rscFlags false false op.bits) (df.bits p.bit) sra.bits srb.bits

/-- IRS (R268). -/
def encodeIrs (rl : Relation) (subtract : Bool) (dr sra srb : Reg) : Word :=
  encodeIR 14 (rscRelation rl subtract) dr sra srb

/-- FRS (R277). -/
def encodeFrs (rl : Relation) (subtract : Bool) (p : Precision) (df : FReg)
    (sra srb : FDesignator) : Word :=
  encodeIR 15 (rscRelation rl subtract) (df.bits p.bit) sra.bits srb.bits

/-- DLR (42_argument.md R319). -/
def encodeDlr (lf : DirectLogic) (dr : Reg) (a : BitVec 16) : Word :=
  encodeAR 0 lf.bits dr a

/-- DAR (42_argument.md R305). -/
def encodeDar (af : DirectArith) (dr : Reg) (a : BitVec 16) : Word :=
  encodeAR 1 af.bits dr a

/-- DSK (42_argument.md R310): the AFC bits are 1 and CM. -/
def encodeDsk (cm : Bool) (rl : Relation) (dr : Reg) (a : BitVec 16) : Word :=
  encodeAR (1#1 ++ BitVec.ofBool cm) rl.bits dr a

/-- R of EXC: the form selector (40_memory_reference.md R139). -/
def ExcForm.bits : ExcForm → BitVec 6
  | .memory => 0
  | .immediate => 1

/-- The word of an instruction. -/
def encode : Instr → Word
  | .rtj r m => encodeMR 1 r m
  | .exc form x b d => encodeMR 2 form.bits ⟨false, x, b, d⟩
  | .min r m => encodeMR 3 r m
  | .crg r m => encodeMR 4 r m
  | .crl r m => encodeMR 5 r m
  | .cre r m => encodeMR 6 r m
  | .crd r m => encodeMR 7 r m
  | .jrp r m => encodeMR 8 r m
  | .jrn r m => encodeMR 9 r m
  | .jrz r m => encodeMR 10 r m
  | .jrf r m => encodeMR 11 r m
  | .jpm r m => encodeMR 12 (0#2 ++ r) m
  | .jnm r m => encodeMR 13 (0#2 ++ r) m
  | .jzm r m => encodeMR 14 (0#2 ++ r) m
  | .jfm r m => encodeMR 15 (0#2 ++ r) m
  | .add r m => encodeMR 16 r m
  | .sub r m => encodeMR 17 r m
  | .and r m => encodeMR 18 r m
  | .ldr r m => encodeMR 19 r m
  | .adm r m => encodeMR 20 r m
  | .fc21 r m => encodeMR 21 r m
  | .xmr r m => encodeMR 22 r m
  | .str r m => encodeMR 23 r m
  | .mpy r m => encodeMR 24 r m
  | .div r m => encodeMR 25 r m
  | .ldd fd m => encodeMR 26 fd.bits m
  | .std fd m => encodeMR 27 fd.bits m
  | .fad f m => encodeMR 28 (f.bits false) m
  | .fadd f m => encodeMR 28 (f.bits true) m
  | .fsb f m => encodeMR 29 (f.bits false) m
  | .fsbd f m => encodeMR 29 (f.bits true) m
  | .fmu f m => encodeMR 30 (f.bits false) m
  | .fmud f m => encodeMR 30 (f.bits true) m
  | .fdv f m => encodeMR 31 (f.bits false) m
  | .fdvd f m => encodeMR 31 (f.bits true) m
  | .stop code => encodeIR18 0 0 code
  | .rio write dr sra e => encodeRio write dr sra e
  | .rin dr unused e => encodeRio false dr unused e
  | .rout unused sra e => encodeRio true unused sra e
  | .shr l r sm dr sra sc => encodeShr l r sm dr sra sc
  | .slr dr sra sc => encodeShr true false .rotate dr sra sc
  | .srr dr sra sc => encodeShr false true .rotate dr sra sc
  | .sla dr sra sc => encodeShr true false .arithmetic dr sra sc
  | .sra dr sra sc => encodeShr false true .arithmetic dr sra sc
  | .sll dr sra sc => encodeShr true false .logical dr sra sc
  | .srl dr sra sc => encodeShr false true .logical dr sra sc
  | .shd l r sm dfd srad sc => encodeShd l r sm dfd srad sc
  | .slrd dfd srad sc => encodeShd true false .rotate dfd srad sc
  | .srrd dfd srad sc => encodeShd false true .rotate dfd srad sc
  | .slad dfd srad sc => encodeShd true false .arithmetic dfd srad sc
  | .srad dfd srad sc => encodeShd false true .arithmetic dfd srad sc
  | .slld dfd srad sc => encodeShd true false .logical dfd srad sc
  | .srld dfd srad sc => encodeShd false true .logical dfd srad sc
  | .bst dr sra bn => encodeBit 4 0b1100 dr sra bn
  | .bcm dr sra bn => encodeBit 4 0b1101 dr sra bn
  | .bcl dr sra bn => encodeBit 5 0b1100 dr sra bn
  | .bsz dr sra bn => encodeBit 6 0b1100 dr sra bn
  | .bso dr sra bn => encodeBit 7 0b1100 dr sra bn
  | .fix dr f => encodeIR 8 0b0000 dr (f.bits false) 0
  | .fir dr f => encodeIR 8 0b1000 dr (f.bits false) 0
  | .fixd dr f => encodeIR 8 0b0000 dr (f.bits true) 0
  | .fird dr f => encodeIR 8 0b1000 dr (f.bits true) 0
  | .flo f sra => encodeIR 9 0b0010 (f.bits false) sra 0
  | .flod f sra => encodeIR 9 0b0010 (f.bits true) sra 0
  | .lro ca cb lo dr sra srb => encodeLro ca cb lo dr sra srb
  | .szr dr sra srb => encodeLro false false .zero dr sra srb
  | .rnd dr sra srb => encodeLro false false .and dr sra srb
  | .rnda dr sra srb => encodeLro true false .and dr sra srb
  | .rndb dr sra srb => encodeLro false true .and dr sra srb
  | .rxo dr sra srb => encodeLro false false .xor dr sra srb
  | .rxoa dr sra srb => encodeLro true false .xor dr sra srb
  | .rxob dr sra srb => encodeLro false true .xor dr sra srb
  | .ror dr sra srb => encodeLro false false .or dr sra srb
  | .rora dr sra srb => encodeLro true false .or dr sra srb
  | .rorb dr sra srb => encodeLro false true .or dr sra srb
  | .rfc11 rsc low => encodeIR18 11 rsc low
  | .iroAddSub sc ac sb dr sra srb => encodeIro sc ac false sb dr sra srb
  | .iroMulDiv dv dr sra srb => encodeIro false false true dv dr sra srb
  | .rad dr sra srb => encodeIro false false false false dr sra srb
  | .rsb dr sra srb => encodeIro false false false true dr sra srb
  | .rmu dr sra srb => encodeIro false false true false dr sra srb
  | .rdv dr sra srb => encodeIro false false true true dr sra srb
  | .fro op p df sra srb => encodeFro op p df sra srb
  | .raf df sra srb => encodeFro .add .single df sra srb
  | .rsf df sra srb => encodeFro .sub .single df sra srb
  | .rmf df sra srb => encodeFro .mul .single df sra srb
  | .rdf df sra srb => encodeFro .div .single df sra srb
  | .rafd df sra srb => encodeFro .add .double df sra srb
  | .rsfd df sra srb => encodeFro .sub .double df sra srb
  | .rmfd df sra srb => encodeFro .mul .double df sra srb
  | .rdfd df sra srb => encodeFro .div .double df sra srb
  | .irs rl sb dr sra srb => encodeIrs rl sb dr sra srb
  | .sgr dr sra srb => encodeIrs .ge true dr sra srb
  | .asg dr sra srb => encodeIrs .ge false dr sra srb
  | .sle dr sra srb => encodeIrs .lt true dr sra srb
  | .asl dr sra srb => encodeIrs .lt false dr sra srb
  | .seq dr sra srb => encodeIrs .eq true dr sra srb
  | .ase dr sra srb => encodeIrs .eq false dr sra srb
  | .sue dr sra srb => encodeIrs .ne true dr sra srb
  | .asu dr sra srb => encodeIrs .ne false dr sra srb
  | .frs rl sb p df sra srb => encodeFrs rl sb p df sra srb
  | .sgf df sra srb => encodeFrs .ge true .single df sra srb
  | .asgf df sra srb => encodeFrs .ge false .single df sra srb
  | .slf df sra srb => encodeFrs .lt true .single df sra srb
  | .aslf df sra srb => encodeFrs .lt false .single df sra srb
  | .sef df sra srb => encodeFrs .eq true .single df sra srb
  | .asef df sra srb => encodeFrs .eq false .single df sra srb
  | .suf df sra srb => encodeFrs .ne true .single df sra srb
  | .asuf df sra srb => encodeFrs .ne false .single df sra srb
  | .sgd df sra srb => encodeFrs .ge true .double df sra srb
  | .agfd df sra srb => encodeFrs .ge false .double df sra srb
  | .sld df sra srb => encodeFrs .lt true .double df sra srb
  | .alfd df sra srb => encodeFrs .lt false .double df sra srb
  | .sed df sra srb => encodeFrs .eq true .double df sra srb
  | .aefd df sra srb => encodeFrs .eq false .double df sra srb
  | .sud df sra srb => encodeFrs .ne true .double df sra srb
  | .aufd df sra srb => encodeFrs .ne false .double df sra srb
  | .dlr lf dr a => encodeDlr lf dr a
  | .dlrClear dr a => encodeDlr .clear dr a
  | .xora dr a => encodeDlr .xor dr a
  | .anda dr a => encodeDlr .and dr a
  | .ora dr a => encodeDlr .or dr a
  | .dar af dr a => encodeDar af dr a
  | .seta dr a => encodeDar .set dr a
  | .seca dr a => encodeDar .setNeg dr a
  | .adda dr a => encodeDar .add dr a
  | .adca dr a => encodeDar .sub dr a
  | .dsk cm rl dr a => encodeDsk cm rl dr a
  | .ddp dr a => encodeDsk false .ge dr a
  | .ddn dr a => encodeDsk false .lt dr a
  | .ddz dr a => encodeDsk false .eq dr a
  | .ddf dr a => encodeDsk false .ne dr a
  | .dsp dr a => encodeDsk true .ge dr a
  | .dsn dr a => encodeDsk true .lt dr a
  | .dsz dr a => encodeDsk true .eq dr a
  | .dsf dr a => encodeDsk true .ne dr a

end Sys2Proof
end

