-- ==== Sys2Proof/Config.lean ====
section
/-! DEFINITION. What an implementation fixes and what the spec leaves open: the run parameters of
00_scope.md section 4 (their type and the values a machine starts with), the reset values the model
names, and the free values, which are constants without a body. -/

namespace Sys2Proof

/-- int_overflow_action (60_exceptions.md R372): what an integer overflow causes. -/
inductive OverflowAction where
  | ignore
  | monitorCall
  deriving DecidableEq, Repr

/-- r0_dest_test (92_eei_decisions.md D18): what a testing instruction tests when its destination is
register 0: the computed value, or register 0 read back. -/
inductive R0DestTest where
  | result
  | reread
  deriving DecidableEq, Repr

/-- The run parameters that stay open in the spec (log 5). They stand in `Machine.State` as plain
data that no instruction writes, so a statement over all states holds for every setting. -/
structure Params where
  /-- MEM_WORDS, the number of words of memory (20_memory.md R61). -/
  memWords : Nat
  overflowAction : OverflowAction
  r0DestTest : R0DestTest
  deriving DecidableEq, Repr

/-- What one floating result does to the flags: "both nothing or exactly one of OVF and UNF"
(60_exceptions.md R375). -/
inductive FloatEvent where
  | none
  | overflow
  | underflow
  deriving DecidableEq, Repr, Inhabited

namespace Config

/-- The parameters at reset. MEM_WORDS = 2^20 as in spec/95_test_vectors.md section 2, the two other
values the spec's defaults. DESIGN CHOICE (log 5), unsafe for a claim about reset only. -/
def resetParams : Params :=
  { memWords := 2 ^ 20, overflowAction := .ignore, r0DestTest := .result }

/-- START_P. DESIGN CHOICE (log 3), unsafe: 10_state.md R42 gives P no reset value. -/
def startP : Word := 0

/-- What every register without a reset value in the spec holds at reset. DESIGN CHOICE (log 3),
unsafe. -/
def resetRegister : Word := 0

/-- What an address that the memory list does not hold reads as. DESIGN CHOICE (log 1), unsafe:
20_memory.md and 10_state.md R42 leave memory's contents unspecified. -/
def unlistedByte : Byte := 0

/-- Free value: the quotient of an integer division by zero or of -2^31 by -1
(40_memory_reference.md R162: "the results are not in the source"). The spec's own model refuses the two
cases. DESIGN CHOICE (log 7), safe in the value. -/
opaque divQuotient : Word → Word → Word

/-- Free value: the remainder in the same two cases. DESIGN CHOICE (log 7), safe in the value. -/
opaque divRemainder : Word → Word → Word

/-- Free value: the result of a single precision division by floating zero (43_floating_numerics.md
R335: "a total model may instead return an unconstrained value"). DESIGN CHOICE (log 8), safe. -/
opaque floatDivZeroSingle : Word → Word → Word

/-- Free value: the result of a double precision division by floating zero. DESIGN CHOICE (log 8),
safe. -/
opaque floatDivZeroDouble : DWord → DWord → DWord

/-- Free value: which flag, if any, a division by floating zero sets. DESIGN CHOICE (log 8), safe. -/
opaque floatDivZeroEvent : Precision → Nat → Nat → FloatEvent

end Config

end Sys2Proof
end

