-- ==== Sys2Proof/Machine/State.lean ====
section
/-! DEFINITION. The state of the NORD-50 as the spec gives it (10_state.md section 1), the reasons a
step can stop, and the state after reset. INVENTORY.md lists every field with its rule. -/

namespace Sys2Proof.Machine

/-- Memory: the bytes that differ from `Config.unlistedByte`, addresses strictly rising. Word a of the
machine is the bytes 4a .. 4a+3, most significant first (20_memory.md R60, R77; log 1, log 2). -/
abbrev Memory := List Host.Cell

/-- Why a stopped CPU stopped (60_exceptions.md R370, R372). -/
inductive StopCause where
  /-- STOP, with the monitor function code IW[17:0]. -/
  | monitor (code : BitVec 18)
  /-- An integer overflow under int_overflow_action = monitor_call, with the instruction's address. -/
  | overflow (addr : Word)
  deriving DecidableEq, Repr

/-- Run state (10_state.md R36): the CPU is either running or stopped. -/
inductive RunState where
  | running
  | stopped (cause : StopCause)
  deriving DecidableEq, Repr

/-- The next-instruction buffer (10_state.md R37): a word and the address it was read from. -/
structure NextBuffer where
  addr : Word
  word : Word
  deriving DecidableEq, Repr

/-- Everything the spec gives the machine. -/
structure State where
  /-- GR_0 .. GR_63 (R21). Cell 0 is never read and never written (R22). -/
  regs : Vector Word 64
  /-- The addressing taint of GR_0 .. GR_15 (R38). GR_0 is never tainted. -/
  taint : Vector Bool 16
  /-- P, the program counter (R29). -/
  pc : Word
  /-- IR, the instruction register (R30). -/
  ir : Word
  /-- OR, the overflow register: the upper half of a product (R31). -/
  regOR : Word
  /-- RR, the remainder register (R32). -/
  regRR : Word
  /-- CB, the carry bit (R33). -/
  cb : Bool
  /-- OVF, the overflow flag, sticky (R34). -/
  ovf : Bool
  /-- UNF, the underflow flag, sticky (R35). -/
  unf : Bool
  /-- The run state (R36). -/
  run : RunState
  /-- The next-instruction buffer (R37, 20_memory.md R75). -/
  nib : Option NextBuffer
  /-- Memory (R40). -/
  mem : Memory
  /-- The MODEL's own field: the run parameters that the spec leaves open (log 5). -/
  params : Params
  deriving DecidableEq, Repr

/-- What an access to memory is for (20_memory.md R61). -/
inductive Access where
  | fetch
  | indirect
  | read
  | write
  deriving DecidableEq, Repr

/-- The faults of the model. -/
inductive Fault where
  /-- Raised by every memory access to an address at or beyond MEM_WORDS (20_memory.md R61,
  oob_policy = fault). Safe: the machine may go on where the model stops (log 6). -/
  | addressOutOfRange (access : Access) (addr : Word)
  deriving DecidableEq, Repr

/-- The refusals of the model. -/
inductive Refusal where
  /-- Raised by an arm of `exec` for an instruction with no meaning yet. Safe. -/
  | notModelled (mnemonic : String)
  /-- Raised by `step` and by EXC for a word that is no instruction (30_encoding.md R101,
  60_exceptions.md R379). Safe (log 19). -/
  | undefinedWord (why : Undefined)
  /-- Raised by FC_21: "Instruction set aside for future extensions", "Not used"
  (40_memory_reference.md R158). Safe (log 19). -/
  | reservedFC21
  /-- Raised by RFC_11: "saved for future usage", "Not used" (41_inter_register.md R242). Safe
  (log 19). -/
  | reservedRFC11
  /-- Raised by EXC when the word to execute is itself an EXC (40_memory_reference.md R139). Safe
  (log 20). -/
  | excOfExc
  /-- Raised by the address calculation when a sixteenth indirect address word still has its I flag
  set (40_memory_reference.md R132). Safe (log 18). -/
  | indirectTooDeep
  /-- Raised by the address calculation for an indirect address word with bits 22-20 non-zero
  (40_memory_reference.md R131). Safe (log 18). -/
  | indirectWordForm
  /-- Raised by the address calculation when a tainted register is named as base or index
  (40_memory_reference.md R134). Safe (log 17). -/
  | taintedAddress (r : BitVec 4)
  deriving DecidableEq, Repr

/-- One step's outcome. -/
abbrev Outcome := Host.Outcome State Fault Refusal

/-- A reason to stop inside a meaning. -/
inductive Halt where
  | fault (f : Fault)
  | refusal (r : Refusal)
  deriving DecidableEq, Repr

/-- A computation inside a meaning: a value, or a reason to stop. -/
abbrev Res (α : Type) := Except Halt α

/-- The machine right after reset. GR_0 is 0 (10_state.md R42, R22); OVF and UNF are 0, the run state
is running, the next-instruction buffer empty and the taint clear, as 70_reset_and_hazards.md R400
starts a run (log 4); every other register holds the value the log names (log 3), and memory lists
nothing (log 1). -/
def State.reset : State :=
  { regs := Vector.replicate 64 Config.resetRegister
    taint := Vector.replicate 16 false
    pc := Config.startP
    ir := Config.resetRegister
    regOR := Config.resetRegister
    regRR := Config.resetRegister
    cb := false
    ovf := false
    unf := false
    run := .running
    nib := none
    mem := []
    params := Config.resetParams }

end Sys2Proof.Machine
end

