-- ==== Sys2Proof/Machine/Ops.lean ====
section
/-! DEFINITION. The named operations over memory, registers and the program counter, the monitor call
(the one event that takes control out of the program), the monitor call's overflow form, and the
fetch of an instruction. -/

namespace Sys2Proof.Machine

/-! ## Memory as a list of bytes -/

/-- One byte of memory; an unlisted address reads as `Config.unlistedByte`. -/
def Memory.readByte : Memory → Nat → Byte
  | [], _ => Config.unlistedByte
  | (b, v) :: m, a => if b = a then v else Memory.readByte m a

/-- Write one byte, keeping the canonical form: addresses stay strictly rising, and a byte that an
unlisted address reads as is not listed. -/
def Memory.writeByte : Memory → Nat → Byte → Memory
  | [], a, v => if v = Config.unlistedByte then [] else [(a, v)]
  | (b, u) :: m, a, v =>
    if a < b then
      if v = Config.unlistedByte then (b, u) :: m else (a, v) :: (b, u) :: m
    else if a = b then
      if v = Config.unlistedByte then m else (a, v) :: m
    else (b, u) :: Memory.writeByte m a v

/-- Every listed address lies above `low`, the addresses rise strictly, and no entry equals what an
unlisted address reads as. -/
def Memory.wfAbove : Nat → Memory → Bool
  | _, [] => true
  | low, (a, v) :: m => decide (low ≤ a) && decide (v ≠ Config.unlistedByte) && Memory.wfAbove (a + 1) m

/-- The canonical form of memory. -/
def Memory.wf (m : Memory) : Bool :=
  Memory.wfAbove 0 m

/-- The word at word address `a` (20_memory.md R62, byte order log 2). -/
def Memory.readWord (m : Memory) (a : Nat) : Word :=
  wordOfBytes (m.readByte (4 * a)) (m.readByte (4 * a + 1)) (m.readByte (4 * a + 2))
    (m.readByte (4 * a + 3))

/-- Replace the word at word address `a` (20_memory.md R62, byte order log 2). -/
def Memory.writeWord (m : Memory) (a : Nat) (v : Word) : Memory :=
  (((m.writeByte (4 * a) (v.extractLsb' 24 8)).writeByte (4 * a + 1) (v.extractLsb' 16 8)).writeByte
    (4 * a + 2) (v.extractLsb' 8 8)).writeByte (4 * a + 3) (v.extractLsb' 0 8)

/-! ## Stops -/

/-- The outcome of a meaning. -/
def deliver : Res State → Outcome
  | .ok s => .next s
  | .error (.fault f) => .fault f
  | .error (.refusal r) => .refused r

/-- Stop with a refusal. -/
def refuse {α : Type} (r : Refusal) : Res α :=
  .error (.refusal r)

/-! ## General registers -/

/-- Read a general register: "GR_0 always contains zero" (10_state.md R22). -/
def State.reg (s : State) (r : Reg) : Word :=
  if r = 0#6 then 0#32 else s.regs[r.toNat]'r.isLt

/-- The taint bits after a write of GR_r that sets or clears its taint (10_state.md R38): only GR_1 ..
GR_15 have one. -/
def taintAfter (t : Vector Bool 16) (r : Reg) (v : Bool) : Vector Bool 16 :=
  if h : r.toNat < 16 then t.set r.toNat v h else t

/-- Write a general register with the given taint; a write to GR_0 is discarded (10_state.md R22, R38;
log 17, log 22). -/
def State.writeReg (s : State) (r : Reg) (v : Word) (tainted : Bool) : State :=
  if r = 0#6 then s
  else { s with regs := s.regs.set r.toNat v r.isLt, taint := taintAfter s.taint r tainted }

/-- A write by an ordinary instruction: it clears the taint (10_state.md R38). -/
def State.setReg (s : State) (r : Reg) (v : Word) : State :=
  s.writeReg r v false

/-- A write by a floating arithmetic operation or a double shift: it sets the taint (10_state.md R38). -/
def State.setTaintedReg (s : State) (r : Reg) (v : Word) : State :=
  s.writeReg r v true

/-- Whether GR_r, one of the 16 base and index registers, is tainted; GR_0 never is
(40_memory_reference.md R134). -/
def State.isTainted (s : State) (r : BitVec 4) : Bool :=
  if r = 0#4 then false else s.taint[r.toNat]'r.isLt

/-! ## The program counter -/

/-- P := P + 1 (00_scope.md R5), modulo 2^32 (log 24). -/
def State.next (s : State) : State :=
  { s with pc := s.pc + 1 }

/-- P := P + 2: the next instruction is passed over, and with it a buffered word (20_memory.md R75). -/
def State.skip (s : State) : State :=
  { s with pc := s.pc + 2, nib := none }

/-- P := t; a buffered word is discarded (20_memory.md R75). -/
def State.jump (s : State) (t : Word) : State :=
  { s with pc := t, nib := none }

/-- Skip if the relation holds, else go to the next instruction. -/
def State.skipIf (s : State) (c : Bool) : State :=
  if c then s.skip else s.next

/-- Jump if the relation holds, else go to the next instruction. -/
def State.jumpIf (s : State) (c : Bool) (t : Word) : State :=
  if c then s.jump t else s.next

/-! ## Memory accesses of the CPU -/

/-- MemRead (20_memory.md R62): an address at or beyond MEM_WORDS faults (R61). -/
def State.load (s : State) (k : Access) (a : Word) : Res Word :=
  if a.toNat < s.params.memWords then .ok (s.mem.readWord a.toNat)
  else .error (.fault (.addressOutOfRange k a))

/-- MemWrite by the instruction at `pc` (20_memory.md R62, R61). A write of the word at `pc + 1` leaves
the old word in the next-instruction buffer (R75, log 21). -/
def State.store (s : State) (a : Word) (v : Word) : Res State :=
  if a.toNat < s.params.memWords then
    .ok { s with
      mem := s.mem.writeWord a.toNat v
      nib := if a = s.pc + 1 then some ⟨a, s.mem.readWord a.toNat⟩ else s.nib }
  else .error (.fault (.addressOutOfRange .write a))

/-- MemRead2 (20_memory.md R63): the words at `a` and `a + 1` mod 2^32, the first in bits 63-32. -/
def State.load2 (s : State) (a : Word) : Res DWord := do
  let hi ← s.load .read a
  let lo ← s.load .read (a + 1)
  return hi ++ lo

/-- MemWrite2 (20_memory.md R63, R66): the word at `a` first, then the word at `a + 1` mod 2^32. -/
def State.store2 (s : State) (a : Word) (hi lo : Word) : Res State := do
  let t ← s.store a hi
  t.store (a + 1) lo

/-! ## The monitor call -/

/-- Take a monitor call: the CPU stops with a cause, and nothing else changes. The machine saves
nothing, has no handler of its own and no return instruction (60_exceptions.md R370, R376, R377). -/
def State.monitorCall (s : State) (cause : StopCause) : State :=
  { s with run := .stopped cause }

/-- The integer overflow monitor call of the instruction at `addr`: after all writes of the
instruction, if so specified (60_exceptions.md R372, R375). -/
def State.overflowCall (s : State) (addr : Word) (overflow : Bool) : State :=
  match overflow, s.params.overflowAction with
  | true, .monitorCall => s.monitorCall (.overflow addr)
  | _, _ => s

/-! ## Fetch -/

/-- The next instruction word: the buffered old word if the buffer holds the word of address P, else
the word in memory (20_memory.md R75). -/
def State.fetch (s : State) : Res Word :=
  match s.nib with
  | some b => if b.addr = s.pc then .ok b.word else s.load .fetch s.pc
  | none => s.load .fetch s.pc

/-- The state in which a fetched word executes: it is in IR, and the buffer is used up (20_memory.md
R75: "buffer <- invalid"). -/
def State.issue (s : State) (w : Word) : State :=
  { s with ir := w, nib := none }

end Sys2Proof.Machine
end

