-- ==== Sys2Proof/Machine/Flags.lean ====
section
/-! DEFINITION. Integer results, the event IntOverflow, the carry bit, the integer division, the
relations, and what a floating result does to OVF and UNF. -/

namespace Sys2Proof.Machine

/-- IntOverflow: the true signed result lies outside -2^31 .. 2^31 - 1 (40_memory_reference.md R136). -/
def intOverflow (t : Int) : Bool :=
  decide (t < -2 ^ 31) || decide (2 ^ 31 - 1 < t)

/-- The word delivered for a true integer result: its low 32 bits (40_memory_reference.md R136). -/
def intWord (t : Int) : Word :=
  BitVec.ofInt 32 t

/-- The low word of the exact product (40_memory_reference.md R161). -/
def productLow (t : Int) : Word :=
  (BitVec.ofInt 64 t).extractLsb' 0 32

/-- The upper word of the exact product, which goes to OR (40_memory_reference.md R161). -/
def productHigh (t : Int) : Word :=
  (BitVec.ofInt 64 t).extractLsb' 32 32

/-- The two corners of integer division whose results are not in the source (40_memory_reference.md
R162): a zero divisor, and -2^31 / -1. -/
def divisionOpen (n d : Word) : Bool :=
  d == 0#32 || (n == 0x80000000#32 && d == 0xFFFFFFFF#32)

/-- The quotient, truncated toward zero (40_memory_reference.md R162; log 9); a free value in the two
open corners (log 7). -/
def quotient (n d : Word) : Word :=
  if divisionOpen n d then Config.divQuotient n d else intWord (n.toInt.tdiv d.toInt)

/-- The remainder, with the sign of the dividend (40_memory_reference.md R162); a free value in the two
open corners (log 7). -/
def remainder (n d : Word) : Word :=
  if divisionOpen n d then Config.divRemainder n d else intWord (n.toInt.tmod d.toInt)

/-- IntOverflow of a division: "quotient out of range" (60_exceptions.md R375), which is -2^31 / -1. The
manual defines no event of a division by zero (60_exceptions.md R371; log 7). -/
def divisionOverflow (n d : Word) : Bool :=
  intOverflow (n.toInt.tdiv d.toInt)

/-- The 33-bit result of IRO add and subtract: operands extended with a zero bit, the carry added in
both cases (41_inter_register.md R253, R254). -/
def carryResult (subtract : Bool) (a b : Word) (c : Bool) : BitVec 33 :=
  let av := a.setWidth 33
  let bv := b.setWidth 33
  let cv := (BitVec.ofBool c).setWidth 33
  if subtract then av - bv + cv else av + bv + cv

/-- The true signed value of IRO add and subtract (41_inter_register.md R253). -/
def carryTrue (subtract : Bool) (a b : Word) (c : Bool) : Int :=
  let cv : Int := if c then 1 else 0
  if subtract then a.toInt - b.toInt + cv else a.toInt + b.toInt + cv

/-- The true signed sum or difference (41_inter_register.md R268). -/
def sumTrue (subtract : Bool) (a b : Word) : Int :=
  if subtract then a.toInt - b.toInt else a.toInt + b.toInt

/-- A relation between a word and zero (40_memory_reference.md R135). -/
def holdsZero (rl : Relation) (v : Word) : Bool :=
  match rl with
  | .ge => !v.getLsbD 31
  | .lt => v.getLsbD 31
  | .eq => v == 0#32
  | .ne => v != 0#32

/-- A relation between two integers (40_memory_reference.md R135, 42_argument.md R310). -/
def holdsInt (rl : Relation) (a b : Int) : Bool :=
  match rl with
  | .ge => decide (b ≤ a)
  | .lt => decide (a < b)
  | .eq => decide (a = b)
  | .ne => decide (a ≠ b)

/-- What a floating result does to the sticky flags (10_state.md R34, R35; 60_exceptions.md R373). -/
def State.note (s : State) (e : FloatEvent) : State :=
  match e with
  | .none => s
  | .overflow => { s with ovf := true }
  | .underflow => { s with unf := true }

end Sys2Proof.Machine
end

