-- ==== Sys2Proof/Machine/Operands.lean ====
section
/-! DEFINITION. Every operand form: floating registers in both precisions (10_state.md R26 to R28),
modification registers (R25), the external registers of RIO (R39), the effective address
(40_memory_reference.md R130 to R134), the extended argument (42_argument.md R300), and the value a
testing instruction tests (92_eei_decisions.md D18). -/

namespace Sys2Proof.Machine

/-! ## Floating registers -/

/-- GR_i of floating register number i: the single register, and the left word of the double
(10_state.md R26, R27). -/
def cellHigh (f : FReg) : Reg :=
  FReg.bits f false

/-- GR_(i+16): the right word of the double register (10_state.md R27). -/
def cellLow (f : FReg) : Reg :=
  FReg.bits f true

/-- f[i] (10_state.md R26). -/
def State.f (s : State) (f : FReg) : Word :=
  s.reg (cellHigh f)

/-- fd[i] = x[i] :: x[i+16] (10_state.md R27). -/
def State.fd (s : State) (f : FReg) : DWord :=
  s.reg (cellHigh f) ++ s.reg (cellLow f)

/-- f[i] <- v by an ordinary instruction. -/
def State.setF (s : State) (f : FReg) (v : Word) : State :=
  s.setReg (cellHigh f) v

/-- fd[i] <- v by an ordinary instruction. -/
def State.setFD (s : State) (f : FReg) (v : DWord) : State :=
  (s.setReg (cellHigh f) (v.extractLsb' 32 32)).setReg (cellLow f) (v.extractLsb' 0 32)

/-- f[i] <- v by floating arithmetic: the destination is tainted (10_state.md R38). -/
def State.setTaintedF (s : State) (f : FReg) (v : Word) : State :=
  s.setTaintedReg (cellHigh f) v

/-- fd[i] <- v by floating arithmetic or a double shift: both halves are tainted (10_state.md R38). -/
def State.setTaintedFD (s : State) (f : FReg) (v : DWord) : State :=
  (s.setTaintedReg (cellHigh f) (v.extractLsb' 32 32)).setTaintedReg (cellLow f)
    (v.extractLsb' 0 32)

/-- The floating register of precision p as a number: f[i] or fd[i] (41_inter_register.md R259). -/
def State.freg (s : State) (p : Precision) (f : FReg) : Nat :=
  match p with
  | .single => (s.f f).toNat
  | .double => (s.fd f).toNat

/-- freg_p <- v, tainting the destination (41_inter_register.md R259, 10_state.md R38). -/
def State.setTaintedFreg (s : State) (p : Precision) (f : FReg) (v : Nat) : State :=
  match p with
  | .single => s.setTaintedF f (BitVec.ofNat 32 v)
  | .double => s.setTaintedFD f (BitVec.ofNat 64 v)

/-- The memory operand of precision p: one word, or the double word at Ea, Ea + 1
(40_memory_reference.md R137). -/
def State.loadFloat (s : State) (p : Precision) (a : Word) : Res Nat :=
  match p with
  | .single => do
    let v ← s.load .read a
    return v.toNat
  | .double => do
    let v ← s.load2 a
    return v.toNat

/-! ## Modification registers -/

/-- GR_R as a general register number, for R in 0 .. 15. -/
def lowReg (r : BitVec 4) : Reg :=
  0#2 ++ r

/-- M_R = GR_(R+16) (10_state.md R25). -/
def modReg (r : BitVec 4) : Reg :=
  1#2 ++ r

/-! ## External registers -/

/-- Read OR or RR (10_state.md R39). -/
def State.ext (s : State) : ExtReg → Word
  | .overflow => s.regOR
  | .remainder => s.regRR

/-- Write OR or RR (10_state.md R39). -/
def State.setExt (s : State) (e : ExtReg) (v : Word) : State :=
  match e with
  | .overflow => { s with regOR := v }
  | .remainder => { s with regRR := v }

/-! ## The effective address -/

/-- The content of a base or index register; a tainted one is refused (40_memory_reference.md R134). -/
def State.addressReg (s : State) (r : BitVec 4) : Res Word :=
  if s.isTainted r then refuse (.taintedAddress r) else .ok (s.reg (lowReg r))

/-- (R_B) + (R_X) + D mod 2^32 (40_memory_reference.md R130). -/
def State.address (s : State) (b x : BitVec 4) (d : Word) : Res Word := do
  let vb ← s.addressReg b
  let vx ← s.addressReg x
  return vb + vx + d

/-- The indirect chain from the address of an indirect address word, with the number of levels that
may still be read (40_memory_reference.md R131, R132; 30_encoding.md R92). -/
def State.indirect (s : State) : Nat → Word → Res Word
  | 0, _ => refuse .indirectTooDeep
  | n + 1, a => do
    let iaw ← s.load .indirect a
    if iaw.extractLsb' 20 3 = 0#3 then
      let ea ← s.address (iaw.extractLsb' 23 4) (iaw.extractLsb' 27 4)
        ((iaw.extractLsb' 0 20).setWidth 32)
      if iaw.getLsbD 31 then State.indirect s n ea else .ok ea
    else refuse .indirectWordForm

/-- "The maximum number of levels possible in the NORD-50 is 16" (40_memory_reference.md R132). -/
def maxIndirect : Nat := 16

/-- Ea (40_memory_reference.md R130, R131). -/
def State.effAddr (s : State) (m : MemRef) : Res Word := do
  let ea ← s.address m.b m.x (m.d.setWidth 32)
  if m.i then s.indirect maxIndirect ea else .ok ea

/-! ## Arguments and tested values -/

/-- Az: the argument extended by sixteen upper zeros (42_argument.md R300). -/
def argWord (a : BitVec 16) : Word :=
  a.setWidth 32

/-- What JPM, JNM, JZM, JFM, BSZ and BSO test after writing `v` to register `r`: the computed value, or
the register read back, by r0_dest_test (92_eei_decisions.md D18). The two differ for register 0 only. -/
def State.tested (s : State) (r : Reg) (v : Word) : Word :=
  match s.params.r0DestTest with
  | .result => v
  | .reread => s.reg r

/-- The same for the destination of FRS. -/
def State.testedFreg (s : State) (p : Precision) (f : FReg) (v : Nat) : Nat :=
  match s.params.r0DestTest with
  | .result => v
  | .reread => s.freg p f

end Sys2Proof.Machine
end

