-- ==== Sys2Proof/Machine/MemArith.lean ====
section
/-! DEFINITION. Memory reference instructions on integers: MIN, the compares, ADD .. STR, MPY, DIV, and the
double word moves LDD and STD (40_memory_reference.md R140 to R144, R153 to R164). -/

namespace Sys2Proof.Machine

/-- A skip on the relation between a register and the memory word, both signed
(40_memory_reference.md R141 to R144, R135). -/
def compareSkip (rl : Relation) (r : Reg) (m : MemRef) (s : State) : Outcome :=
  deliver do
    let ea ← s.effAddr m
    let v ← s.load .read ea
    return s.skipIf (holdsInt rl (s.reg r).toInt v.toInt)

/-- CRG, skip if register is greater than or equal to memory word (40_memory_reference.md R141). -/
def execCrg (r : Reg) (m : MemRef) (s : State) : Outcome :=
  compareSkip .ge r m s

/-- CRL, skip if register is less than memory word (40_memory_reference.md R142). -/
def execCrl (r : Reg) (m : MemRef) (s : State) : Outcome :=
  compareSkip .lt r m s

/-- CRE, skip if register and memory word are equal (40_memory_reference.md R143). -/
def execCre (r : Reg) (m : MemRef) (s : State) : Outcome :=
  compareSkip .eq r m s

/-- CRD, skip if register and memory word differ (40_memory_reference.md R144). -/
def execCrd (r : Reg) (m : MemRef) (s : State) : Outcome :=
  compareSkip .ne r m s

/-- A register result with a true integer value: the wrapped word is written, P advances, and
IntOverflow may call the monitor (40_memory_reference.md R136, 60_exceptions.md R372). -/
def State.setInt (s : State) (r : Reg) (t : Int) : State :=
  (s.setReg r (intWord t)).next.overflowCall s.pc (intOverflow t)

/-- MIN, Memory Increment (40_memory_reference.md R140): the skip is on the stored word. -/
def execMin (r : Reg) (m : MemRef) (s : State) : Outcome :=
  deliver do
    let ea ← s.effAddr m
    let v ← s.load .read ea
    let sum := v.toInt + (s.reg r).toInt + 1
    let t ← s.store ea (intWord sum)
    return (t.skipIf (intWord sum == 0#32)).overflowCall s.pc (intOverflow sum)

/-- ADD, add content of memory word to register (40_memory_reference.md R153). -/
def execAdd (r : Reg) (m : MemRef) (s : State) : Outcome :=
  deliver do
    let ea ← s.effAddr m
    let v ← s.load .read ea
    return s.setInt r ((s.reg r).toInt + v.toInt)

/-- SUB, subtract content of memory word from register (40_memory_reference.md R154). -/
def execSub (r : Reg) (m : MemRef) (s : State) : Outcome :=
  deliver do
    let ea ← s.effAddr m
    let v ← s.load .read ea
    return s.setInt r ((s.reg r).toInt - v.toInt)

/-- AND, logical AND between memory word and register (40_memory_reference.md R155). -/
def execAnd (r : Reg) (m : MemRef) (s : State) : Outcome :=
  deliver do
    let ea ← s.effAddr m
    let v ← s.load .read ea
    return (s.setReg r (s.reg r &&& v)).next

/-- LDR, load content of memory word to register (40_memory_reference.md R156). -/
def execLdr (r : Reg) (m : MemRef) (s : State) : Outcome :=
  deliver do
    let ea ← s.effAddr m
    let v ← s.load .read ea
    return (s.setReg r v).next

/-- ADM, add contents of register to memory word (40_memory_reference.md R157). -/
def execAdm (r : Reg) (m : MemRef) (s : State) : Outcome :=
  deliver do
    let ea ← s.effAddr m
    let v ← s.load .read ea
    let sum := v.toInt + (s.reg r).toInt
    let t ← s.store ea (intWord sum)
    return t.next.overflowCall s.pc (intOverflow sum)

/-- XMR, exchange contents of register and memory word (40_memory_reference.md R159, log 36). -/
def execXmr (r : Reg) (m : MemRef) (s : State) : Outcome :=
  deliver do
    let ea ← s.effAddr m
    let v ← s.load .read ea
    let t ← s.store ea (s.reg r)
    return (t.setReg r v).next

/-- STR, store register in memory word (40_memory_reference.md R160). -/
def execStr (r : Reg) (m : MemRef) (s : State) : Outcome :=
  deliver do
    let ea ← s.effAddr m
    let t ← s.store ea (s.reg r)
    return t.next

/-- A multiply: the low word to a register, the upper word to OR, IntOverflow when the product does not
fit (40_memory_reference.md R161, 41_inter_register.md R253). -/
def State.setProduct (s : State) (r : Reg) (t : Int) : State :=
  { s with regOR := productHigh t }.setReg r (productLow t) |>.next.overflowCall s.pc (intOverflow t)

/-- A divide: quotient to a register, remainder to RR (40_memory_reference.md R162,
41_inter_register.md R253). -/
def State.setQuotient (s : State) (r : Reg) (n d : Word) : State :=
  { s with regRR := remainder n d }.setReg r (quotient n d) |>.next.overflowCall s.pc
    (divisionOverflow n d)

/-- MPY, multiply contents of register and memory word (40_memory_reference.md R161). -/
def execMpy (r : Reg) (m : MemRef) (s : State) : Outcome :=
  deliver do
    let ea ← s.effAddr m
    let v ← s.load .read ea
    return s.setProduct r ((s.reg r).toInt * v.toInt)

/-- DIV, divide content of register by content of memory word (40_memory_reference.md R162). -/
def execDiv (r : Reg) (m : MemRef) (s : State) : Outcome :=
  deliver do
    let ea ← s.effAddr m
    let v ← s.load .read ea
    return s.setQuotient r (s.reg r) v

/-- LDD, load double precision register: a copy of 64 bits (40_memory_reference.md R163). -/
def execLdd (fd : FDesignator) (m : MemRef) (s : State) : Outcome :=
  deliver do
    let ea ← s.effAddr m
    let v ← s.load2 ea
    return (s.setFD fd.reg v).next

/-- STD, store double precision register (40_memory_reference.md R164). -/
def execStd (fd : FDesignator) (m : MemRef) (s : State) : Outcome :=
  deliver do
    let ea ← s.effAddr m
    let t ← s.store2 ea (s.reg (cellHigh fd.reg)) (s.reg (cellLow fd.reg))
    return t.next

end Sys2Proof.Machine
end

