-- ==== Sys2Proof/Machine/Argument.lean ====
section
/-! DEFINITION. The argument instructions DLR, DAR, DSK and their mnemonics (42_argument.md R300 to R319). -/

namespace Sys2Proof.Machine

/-- DLR for one logical function (42_argument.md R319). -/
def directLogic (lf : DirectLogic) (dr : Reg) (a : BitVec 16) (s : State) : Outcome :=
  let v := match lf with
    | .clear => 0
    | .xor => s.reg dr ^^^ argWord a
    | .and => s.reg dr &&& argWord a
    | .or => s.reg dr ||| argWord a
  .next (s.setReg dr v).next

/-- DLR, Direct Logical Operation, in its general form (42_argument.md R319). -/
def execDlr (lf : DirectLogic) (dr : Reg) (a : BitVec 16) (s : State) : Outcome :=
  directLogic lf dr a s

/-- DLR with LF = 0, clear register: the argument is ignored (42_argument.md R301). -/
def execDlrClear (dr : Reg) (a : BitVec 16) (s : State) : Outcome :=
  directLogic .clear dr a s

/-- XORA, exclusive or (42_argument.md R302). -/
def execXora (dr : Reg) (a : BitVec 16) (s : State) : Outcome :=
  directLogic .xor dr a s

/-- ANDA, and (42_argument.md R303). -/
def execAnda (dr : Reg) (a : BitVec 16) (s : State) : Outcome :=
  directLogic .and dr a s

/-- ORA, or (42_argument.md R304). -/
def execOra (dr : Reg) (a : BitVec 16) (s : State) : Outcome :=
  directLogic .or dr a s

/-- The true integer result of DAR (42_argument.md R305). -/
def directTrue (af : DirectArith) (v : Word) (a : BitVec 16) : Int :=
  match af with
  | .set => a.toNat
  | .setNeg => -a.toNat
  | .add => v.toInt + a.toNat
  | .sub => v.toInt - a.toNat

/-- DAR for one function: the wrapped result is written, IntOverflow on the true result (42_argument.md
R305). -/
def directArith (af : DirectArith) (dr : Reg) (a : BitVec 16) (s : State) : Outcome :=
  .next (s.setInt dr (directTrue af (s.reg dr) a))

/-- DAR, Direct Arithmetic Function, in its general form (42_argument.md R305). -/
def execDar (af : DirectArith) (dr : Reg) (a : BitVec 16) (s : State) : Outcome :=
  directArith af dr a s

/-- SETA, set register (42_argument.md R306). -/
def execSeta (dr : Reg) (a : BitVec 16) (s : State) : Outcome :=
  directArith .set dr a s

/-- SECA, set register to complement (42_argument.md R307). -/
def execSeca (dr : Reg) (a : BitVec 16) (s : State) : Outcome :=
  directArith .setNeg dr a s

/-- ADDA, add (42_argument.md R308). -/
def execAdda (dr : Reg) (a : BitVec 16) (s : State) : Outcome :=
  directArith .add dr a s

/-- ADCA, add complement (42_argument.md R309). -/
def execAdca (dr : Reg) (a : BitVec 16) (s : State) : Outcome :=
  directArith .sub dr a s

/-- DSK for one setting: an exact signed comparison with A or -A (42_argument.md R310). -/
def directSkip (cm : Bool) (rl : Relation) (dr : Reg) (a : BitVec 16) (s : State) : Outcome :=
  let c : Int := if cm then -a.toNat else a.toNat
  .next (s.skipIf (holdsInt rl (s.reg dr).toInt c))

/-- DSK, Direct Skip, in its general form (42_argument.md R310). -/
def execDsk (cm : Bool) (rl : Relation) (dr : Reg) (a : BitVec 16) (s : State) : Outcome :=
  directSkip cm rl dr a s

/-- DDP, skip if (DR) >= ARG (42_argument.md R311). -/
def execDdp (dr : Reg) (a : BitVec 16) (s : State) : Outcome :=
  directSkip false .ge dr a s

/-- DDN, skip if (DR) < ARG (42_argument.md R312). -/
def execDdn (dr : Reg) (a : BitVec 16) (s : State) : Outcome :=
  directSkip false .lt dr a s

/-- DDZ, skip if (DR) = ARG (42_argument.md R313). -/
def execDdz (dr : Reg) (a : BitVec 16) (s : State) : Outcome :=
  directSkip false .eq dr a s

/-- DDF, skip if (DR) != ARG (42_argument.md R314). -/
def execDdf (dr : Reg) (a : BitVec 16) (s : State) : Outcome :=
  directSkip false .ne dr a s

/-- DSP, skip if (DR) >= -ARG (42_argument.md R315). -/
def execDsp (dr : Reg) (a : BitVec 16) (s : State) : Outcome :=
  directSkip true .ge dr a s

/-- DSN, skip if (DR) < -ARG (42_argument.md R316). -/
def execDsn (dr : Reg) (a : BitVec 16) (s : State) : Outcome :=
  directSkip true .lt dr a s

/-- DSZ, skip if (DR) = -ARG (42_argument.md R317). -/
def execDsz (dr : Reg) (a : BitVec 16) (s : State) : Outcome :=
  directSkip true .eq dr a s

/-- DSF, skip if (DR) != -ARG (42_argument.md R318). -/
def execDsf (dr : Reg) (a : BitVec 16) (s : State) : Outcome :=
  directSkip true .ne dr a s

end Sys2Proof.Machine
end

