-- ==== Sys2Proof/Machine/Bit.lean ====
section
/-! DEFINITION. The bit instructions BST, BCM, BCL, BSZ, BSO (41_inter_register.md R219 to R223). -/

namespace Sys2Proof.Machine

/-- The word with only bit BN set. -/
def bitMask (bn : BitVec 5) : Word :=
  1#32 <<< bn.toNat

/-- BST, Bit Set (41_inter_register.md R219). -/
def execBst (dr sra : Reg) (bn : BitVec 5) (s : State) : Outcome :=
  .next (s.setReg dr (s.reg sra ||| bitMask bn)).next

/-- BCM, Bit Complement (41_inter_register.md R220). -/
def execBcm (dr sra : Reg) (bn : BitVec 5) (s : State) : Outcome :=
  .next (s.setReg dr (s.reg sra ^^^ bitMask bn)).next

/-- BCL, Bit Clear (41_inter_register.md R221). -/
def execBcl (dr sra : Reg) (bn : BitVec 5) (s : State) : Outcome :=
  .next (s.setReg dr (s.reg sra &&& ~~~bitMask bn)).next

/-- Copy SRA to DR and skip when bit BN of the tested value is `b` (41_inter_register.md R222, R223). -/
def bitSkip (b : Bool) (dr sra : Reg) (bn : BitVec 5) (s : State) : Outcome :=
  let t := s.setReg dr (s.reg sra)
  .next (t.skipIf ((t.tested dr (s.reg sra)).getLsbD bn.toNat == b))

/-- BSZ, Bit Skip on Zero (41_inter_register.md R222). -/
def execBsz (dr sra : Reg) (bn : BitVec 5) (s : State) : Outcome :=
  bitSkip false dr sra bn s

/-- BSO, Bit Skip on One (41_inter_register.md R223). -/
def execBso (dr sra : Reg) (bn : BitVec 5) (s : State) : Outcome :=
  bitSkip true dr sra bn s

end Sys2Proof.Machine
end

