-- ==== Sys2Proof/Machine/Float.lean ====
section
/-! DEFINITION. The floating numerics of 43_floating_numerics.md, on numbers: a word of precision p is
the natural number of its W bits, and every function computes exactly before it packs. Each function
delivers its bits and what happens to the flags (R327). -/

namespace Sys2Proof.Machine

/-- p, the length of the mantissa (43_floating_numerics.md R320, R321). -/
def mantissaBits : Precision → Nat
  | .single => 23
  | .double => 55

/-- W, the width of the word (43_floating_numerics.md R320, R321). -/
def wordBits : Precision → Nat
  | .single => 32
  | .double => 64

/-- A floating result: the W bits delivered, and the event for the flags. -/
structure FloatResult where
  bits : Nat
  event : FloatEvent
  deriving DecidableEq, Repr

/-- A non-zero floating number: sign, biased exponent, full mantissa M = 2^(p-1) + frac (R325). -/
structure Unpacked where
  s : Bool
  e : Nat
  m : Nat
  deriving DecidableEq, Repr

/-- The sign bit W-1 (R320, R321). -/
def signBit (p : Precision) (w : Nat) : Bool :=
  w.testBit (wordBits p - 1)

/-- The exponent field, bits W-2 .. W-10 (R320, R321). -/
def exponentField (p : Precision) (w : Nat) : Nat :=
  w / 2 ^ (mantissaBits p - 1) % 2 ^ 9

/-- unpack_p (R327); `none` is the number zero, any word with exponent field 0 (R322). -/
def unpack (p : Precision) (w : Nat) : Option Unpacked :=
  if exponentField p w = 0 then none
  else some
    { s := signBit p w
      e := exponentField p w
      m := 2 ^ (mantissaBits p - 1) + w % 2 ^ (mantissaBits p - 1) }

/-- The sign bit as a number. -/
def signValue (p : Precision) (s : Bool) : Nat :=
  if s then 2 ^ (wordBits p - 1) else 0

/-- pack_p (R327), for 1 <= e <= 511 and 2^(p-1) <= m < 2^p. -/
def pack (p : Precision) (s : Bool) (e m : Nat) : Nat :=
  signValue p s + e * 2 ^ (mantissaBits p - 1) + (m - 2 ^ (mantissaBits p - 1))

/-- The canonical zero, the all-zero word (R322). -/
def floatZero : FloatResult :=
  ⟨0, .none⟩

/-- finish_p (R327): overflow forces all bits but the sign to one (R336), underflow gives zero (R337). -/
def finish (p : Precision) (s : Bool) (e : Int) (m : Nat) : FloatResult :=
  if 511 < e then ⟨signValue p s + (2 ^ (wordBits p - 1) - 1), .overflow⟩
  else if e < 1 then ⟨0, .underflow⟩
  else ⟨pack p s e.toNat m, .none⟩

/-! ## Addition and subtraction -/

/-- Whether a has the smaller (e, M) pair (R329). -/
def smaller (a b : Unpacked) : Bool :=
  decide (a.e < b.e) || (decide (a.e = b.e) && decide (a.m < b.m))

/-- MS2: the smaller mantissa with two guard bits, aligned to the larger exponent; the bits below the
second guard bit are dropped (R329). -/
def alignedSmall (l s : Unpacked) : Nat :=
  s.m * 4 / 2 ^ (l.e - s.e)

/-- phys_add_p (R330): l has the larger (e, M) pair, the signs are equal. -/
def physAdd (p : Precision) (l s : Unpacked) : FloatResult :=
  let raw := l.m * 4 + alignedSmall l s
  if raw.testBit (mantissaBits p + 2) then finish p l.s (l.e + 1) ((raw + 4) / 8)
  else
    let rounded := if raw.testBit 1 then raw + 4 else raw
    if rounded.testBit (mantissaBits p + 2) then finish p l.s (l.e + 1) (rounded / 8)
    else finish p l.s l.e (rounded / 4)

/-- phys_sub_p (R331): l has the larger (e, M) pair, and the pairs are not equal. -/
def physSub (p : Precision) (l s : Unpacked) : FloatResult :=
  let raw := l.m * 4 - alignedSmall l s
  if raw.testBit (mantissaBits p + 1) then
    finish p l.s l.e (if raw % 4 = 3 then raw / 4 + 1 else raw / 4)
  else
    let k := mantissaBits p + 1 - raw.log2
    finish p l.s ((l.e : Int) - k) (raw * 2 ^ k / 4)

/-- The sum of two non-zero numbers (R328, R332): a physical addition for equal signs, else a physical
subtraction; equal magnitudes of opposite signs give zero without underflow. -/
def addNonZero (p : Precision) (a b : Unpacked) : FloatResult :=
  let l := if smaller a b then b else a
  let s := if smaller a b then a else b
  if a.s = b.s then physAdd p l s
  else if a.e = b.e ∧ a.m = b.m then floatZero
  else physSub p l s

/-- addsub_p (R328, R332). -/
def addSub (p : Precision) (subtract : Bool) (a b : Nat) : FloatResult :=
  match unpack p a, unpack p b with
  | none, none => floatZero
  | some ua, none => ⟨pack p ua.s ua.e ua.m, .none⟩
  | none, some ub => ⟨pack p (xor ub.s subtract) ub.e ub.m, .none⟩
  | some ua, some ub => addNonZero p ua { ub with s := xor ub.s subtract }

/-- fadd_p (R328). -/
def fadd (p : Precision) (a b : Nat) : FloatResult :=
  addSub p false a b

/-- fsub_p (R328). -/
def fsub (p : Precision) (a b : Nat) : FloatResult :=
  addSub p true a b

/-! ## Multiplication and division -/

/-- M | 1 when the bits dropped are not all zero: "bit 0 in the final result is normally set to one"
(R333, R334). -/
def forceBitZero (m rest : Nat) : Nat :=
  if rest ≠ 0 then m ||| 1 else m

/-- fmul_p (R333, exponent range R338). -/
def fmul (p : Precision) (a b : Nat) : FloatResult :=
  match unpack p a, unpack p b with
  | some ua, some ub =>
    let prod := ua.m * ub.m
    let n := mantissaBits p
    if prod.testBit (2 * n - 1) then
      finish p (xor ua.s ub.s) ((ua.e : Int) + ub.e - 256) (forceBitZero (prod / 2 ^ n) (prod % 2 ^ n))
    else
      finish p (xor ua.s ub.s) ((ua.e : Int) + ub.e - 257)
        (forceBitZero (prod / 2 ^ (n - 1)) (prod % 2 ^ (n - 1)))
  | _, _ => floatZero

/-- The bits delivered by a division by floating zero: a free value of precision p (R335, log 8). -/
def divZeroBits (p : Precision) (a b : Nat) : Nat :=
  match p with
  | .single => (Config.floatDivZeroSingle (BitVec.ofNat 32 a) (BitVec.ofNat 32 b)).toNat
  | .double => (Config.floatDivZeroDouble (BitVec.ofNat 64 a) (BitVec.ofNat 64 b)).toNat

/-- fdiv_p (R334, exponent range R338): a divided by b. A division by floating zero delivers a free
value and a free event (R335, log 8). -/
def fdiv (p : Precision) (a b : Nat) : FloatResult :=
  match unpack p a, unpack p b with
  | _, none => ⟨divZeroBits p a b, Config.floatDivZeroEvent p a b⟩
  | none, some _ => floatZero
  | some ua, some ub =>
    let n := mantissaBits p
    if ub.m ≤ ua.m then
      let num := ua.m * 2 ^ (n - 1)
      finish p (xor ua.s ub.s) ((ua.e : Int) - ub.e + 257) (forceBitZero (num / ub.m) (num % ub.m))
    else
      let num := ua.m * 2 ^ n
      finish p (xor ua.s ub.s) ((ua.e : Int) - ub.e + 256) (forceBitZero (num / ub.m) (num % ub.m))

/-- The four arithmetical functions of FRO (41_inter_register.md R259). -/
def floatArith (op : ArithOp) (p : Precision) (a b : Nat) : FloatResult :=
  match op with
  | .add => fadd p a b
  | .sub => fsub p a b
  | .mul => fmul p a b
  | .div => fdiv p a b

/-! ## Relations to zero and conversions -/

/-- feq0, fne0, flt0, fge0 (R339): zero is any word with exponent field 0. -/
def floatHolds (rl : Relation) (p : Precision) (r : Nat) : Bool :=
  let isZero := decide (exponentField p r = 0)
  match rl with
  | .eq => isZero
  | .ne => !isZero
  | .lt => !isZero && signBit p r
  | .ge => isZero || !signBit p r

/-- The magnitude of conv_p (R340): truncated, or rounded by "the last shifted out bit" (R341). -/
def convertMagnitude (p : Precision) (u : Unpacked) (round : Bool) : Nat :=
  let n := 256 + mantissaBits p
  if n ≤ u.e then u.m * 2 ^ (u.e - n)
  else
    let k := n - u.e
    u.m / 2 ^ k + (if round && u.m.testBit (k - 1) then 1 else 0)

/-- conv_p (R340, R342): the integer word, and overflow to the greatest positive or negative integer. -/
def convert (p : Precision) (round : Bool) (w : Nat) : FloatResult :=
  match unpack p w with
  | none => floatZero
  | some u =>
    let mag := convertMagnitude p u round
    if u.s then
      if 2 ^ 31 < mag then ⟨2 ^ 31, .overflow⟩ else ⟨(2 ^ 32 - mag) % 2 ^ 32, .none⟩
    else
      if 2 ^ 31 - 1 < mag then ⟨2 ^ 31 - 1, .overflow⟩ else ⟨mag, .none⟩

/-- fix_p (R340). -/
def fix (p : Precision) (w : Nat) : FloatResult :=
  convert p false w

/-- fir_p (R340, R341). -/
def fir (p : Precision) (w : Nat) : FloatResult :=
  convert p true w

/-- flo_p (R343, R344): the low bits of the magnitude are dropped, no flag is set. -/
def flo (p : Precision) (x : Word) : Nat :=
  let mag := x.toInt.natAbs
  if mag = 0 then 0
  else
    let n := mag.log2 + 1
    let q := mantissaBits p
    pack p (decide (x.toInt < 0)) (256 + n) (if q < n then mag / 2 ^ (n - q) else mag * 2 ^ (q - n))

end Sys2Proof.Machine
end

