-- ==== Sys2Proof/Machine/Convert.lean ====
section
/-! DEFINITION. Conversions between integer and floating: FIX, FIR, FIXD, FIRD, FLO, FLOD
(41_inter_register.md R224 to R229). -/

namespace Sys2Proof.Machine

/-- A convert to integer: the word to a general register without taint, the event to the flags
(41_inter_register.md R224 to R227, 10_state.md R38). -/
def toInteger (p : Precision) (round : Bool) (dr : Reg) (f : FReg) (s : State) : Outcome :=
  let res := convert p round (s.freg p f)
  .next ((s.setReg dr (BitVec.ofNat 32 res.bits)).note res.event).next

/-- FIX, convert floating to truncated integer (41_inter_register.md R224). -/
def execFix (dr : Reg) (f : FReg) (s : State) : Outcome :=
  toInteger .single false dr f s

/-- FIR, convert floating to rounded integer (41_inter_register.md R225). -/
def execFir (dr : Reg) (f : FReg) (s : State) : Outcome :=
  toInteger .single true dr f s

/-- FIXD, convert double precision floating to truncated integer (41_inter_register.md R226). -/
def execFixd (dr : Reg) (f : FReg) (s : State) : Outcome :=
  toInteger .double false dr f s

/-- FIRD, convert double precision floating to rounded integer (41_inter_register.md R227). -/
def execFird (dr : Reg) (f : FReg) (s : State) : Outcome :=
  toInteger .double true dr f s

/-- FLO, convert integer to floating, not rounded, without taint (41_inter_register.md R228). -/
def execFlo (f : FReg) (sra : Reg) (s : State) : Outcome :=
  .next (s.setF f (BitVec.ofNat 32 (flo .single (s.reg sra)))).next

/-- FLOD, convert integer to double precision floating (41_inter_register.md R229). -/
def execFlod (f : FReg) (sra : Reg) (s : State) : Outcome :=
  .next (s.setFD f (BitVec.ofNat 64 (flo .double (s.reg sra)))).next

end Sys2Proof.Machine
end

