-- ==== Sys2Proof/Machine/FloatMem.lean ====
section
/-! DEFINITION. Floating point with a memory operand: FAD .. FDVD (40_memory_reference.md R165 to R172). -/

namespace Sys2Proof.Machine

/-- A floating instruction with a memory operand of precision p (40_memory_reference.md R137, section 6):
the result goes to the register with taint, its event to the flags. -/
def floatMemory (op : ArithOp) (p : Precision) (f : FReg) (m : MemRef) (s : State) : Outcome :=
  deliver do
    let ea ← s.effAddr m
    let v ← s.loadFloat p ea
    let res := floatArith op p (s.freg p f) v
    return ((s.setTaintedFreg p f res.bits).note res.event).next

/-- FAD, floating add (40_memory_reference.md R165). -/
def execFad (f : FReg) (m : MemRef) (s : State) : Outcome :=
  floatMemory .add .single f m s

/-- FADD, double precision floating add (40_memory_reference.md R166). -/
def execFadd (f : FReg) (m : MemRef) (s : State) : Outcome :=
  floatMemory .add .double f m s

/-- FSB, floating subtract (40_memory_reference.md R167). -/
def execFsb (f : FReg) (m : MemRef) (s : State) : Outcome :=
  floatMemory .sub .single f m s

/-- FSBD, double precision floating subtract (40_memory_reference.md R168). -/
def execFsbd (f : FReg) (m : MemRef) (s : State) : Outcome :=
  floatMemory .sub .double f m s

/-- FMU, floating multiply (40_memory_reference.md R169). -/
def execFmu (f : FReg) (m : MemRef) (s : State) : Outcome :=
  floatMemory .mul .single f m s

/-- FMUD, double precision floating multiply (40_memory_reference.md R170). -/
def execFmud (f : FReg) (m : MemRef) (s : State) : Outcome :=
  floatMemory .mul .double f m s

/-- FDV, floating divide (40_memory_reference.md R171). -/
def execFdv (f : FReg) (m : MemRef) (s : State) : Outcome :=
  floatMemory .div .single f m s

/-- FDVD, double precision floating divide (40_memory_reference.md R172). -/
def execFdvd (f : FReg) (m : MemRef) (s : State) : Outcome :=
  floatMemory .div .double f m s

end Sys2Proof.Machine
end

