-- ==== Sys2Proof/Machine/FloatReg.lean ====
section
/-! DEFINITION. Floating arithmetic between registers: FRO and its mnemonics (41_inter_register.md R259 to
R267). -/

namespace Sys2Proof.Machine

/-- FRO for one function and precision: the destination is tainted, the event goes to the flags
(41_inter_register.md R259, R200). -/
def floatRegister (op : ArithOp) (p : Precision) (df : FReg) (sra srb : FDesignator) (s : State) :
    Outcome :=
  let res := floatArith op p (s.freg p sra.reg) (s.freg p srb.reg)
  .next ((s.setTaintedFreg p df res.bits).note res.event).next

/-- FRO, Floating Point Arithmetic, in its general form (41_inter_register.md R259). -/
def execFro (op : ArithOp) (p : Precision) (df : FReg) (sra srb : FDesignator) (s : State) :
    Outcome :=
  floatRegister op p df sra srb s

/-- RAF, floating register add (41_inter_register.md R260). -/
def execRaf (df : FReg) (sra srb : FDesignator) (s : State) : Outcome :=
  floatRegister .add .single df sra srb s

/-- RSF, floating register subtract (41_inter_register.md R261). -/
def execRsf (df : FReg) (sra srb : FDesignator) (s : State) : Outcome :=
  floatRegister .sub .single df sra srb s

/-- RMF, floating register multiply (41_inter_register.md R262). -/
def execRmf (df : FReg) (sra srb : FDesignator) (s : State) : Outcome :=
  floatRegister .mul .single df sra srb s

/-- RDF, floating register divide (41_inter_register.md R263). -/
def execRdf (df : FReg) (sra srb : FDesignator) (s : State) : Outcome :=
  floatRegister .div .single df sra srb s

/-- RAFD, double precision floating register add (41_inter_register.md R264). -/
def execRafd (df : FReg) (sra srb : FDesignator) (s : State) : Outcome :=
  floatRegister .add .double df sra srb s

/-- RSFD, double precision floating register subtract (41_inter_register.md R265). -/
def execRsfd (df : FReg) (sra srb : FDesignator) (s : State) : Outcome :=
  floatRegister .sub .double df sra srb s

/-- RMFD, double precision floating register multiply (41_inter_register.md R266). -/
def execRmfd (df : FReg) (sra srb : FDesignator) (s : State) : Outcome :=
  floatRegister .mul .double df sra srb s

/-- RDFD, double precision floating register divide (41_inter_register.md R267). -/
def execRdfd (df : FReg) (sra srb : FDesignator) (s : State) : Outcome :=
  floatRegister .div .double df sra srb s

end Sys2Proof.Machine
end

