-- ==== Sys2Proof/Machine/IntReg.lean ====
section
/-! DEFINITION. Integer arithmetic between registers: IRO, RAD, RSB, RMU, RDV and the carry forms
(41_inter_register.md R253 to R258). -/

namespace Sys2Proof.Machine

/-- IRO add or subtract: 33 bits, CB added when ACf is set and written when SCf is set, IntOverflow on
the true signed value (41_inter_register.md R253, R254). -/
def addSubCarry (sc ac subtract : Bool) (dr sra srb : Reg) (s : State) : Outcome :=
  let a := s.reg sra
  let b := s.reg srb
  let c := ac && s.cb
  let u := carryResult subtract a b c
  let t := { s with cb := if sc then u.getLsbD 32 else s.cb }
  .next ((t.setReg dr (u.extractLsb' 0 32)).next.overflowCall s.pc
    (intOverflow (carryTrue subtract a b c)))

/-- IRO multiply or divide (41_inter_register.md R253). -/
def mulDiv (divide : Bool) (dr sra srb : Reg) (s : State) : Outcome :=
  if divide then .next (s.setQuotient dr (s.reg sra) (s.reg srb))
  else .next (s.setProduct dr ((s.reg sra).toInt * (s.reg srb).toInt))

/-- IRO add and subtract, in its general form (41_inter_register.md R253, R254). -/
def execIroAddSub (sc ac subtract : Bool) (dr sra srb : Reg) (s : State) : Outcome :=
  addSubCarry sc ac subtract dr sra srb s

/-- IRO multiply and divide, in its general form (41_inter_register.md R253). -/
def execIroMulDiv (divide : Bool) (dr sra srb : Reg) (s : State) : Outcome :=
  mulDiv divide dr sra srb s

/-- RAD, register add (41_inter_register.md R255). -/
def execRad (dr sra srb : Reg) (s : State) : Outcome :=
  addSubCarry false false false dr sra srb s

/-- RSB, register subtract (41_inter_register.md R256). -/
def execRsb (dr sra srb : Reg) (s : State) : Outcome :=
  addSubCarry false false true dr sra srb s

/-- RMU, register multiply (41_inter_register.md R257). -/
def execRmu (dr sra srb : Reg) (s : State) : Outcome :=
  mulDiv false dr sra srb s

/-- RDV, register divide (41_inter_register.md R258). -/
def execRdv (dr sra srb : Reg) (s : State) : Outcome :=
  mulDiv true dr sra srb s

end Sys2Proof.Machine
end

