-- ==== Sys2Proof/Machine/Jump.lean ====
section
/-! DEFINITION. Control transfer by memory reference instructions: RTJ, JRP .. JRF, JPM .. JFM
(40_memory_reference.md R138, R145 to R152). -/

namespace Sys2Proof.Machine

/-- RTJ, Return Jump (40_memory_reference.md R138): Ea first, then the link, then the jump (R133). -/
def execRtj (r : Reg) (m : MemRef) (s : State) : Outcome :=
  deliver do
    let ea ← s.effAddr m
    return (s.setReg r (s.pc + 1)).jump ea

/-- A jump on the relation of a register to zero (40_memory_reference.md R145 to R148). -/
def jumpOn (rl : Relation) (r : Reg) (m : MemRef) (s : State) : Outcome :=
  deliver do
    let ea ← s.effAddr m
    return s.jumpIf (holdsZero rl (s.reg r)) ea

/-- Add the modification register, then jump on the relation of the result to zero; IntOverflow on
the true sum (40_memory_reference.md R149 to R152, R136). -/
def modifyJump (rl : Relation) (r : BitVec 4) (m : MemRef) (s : State) : Outcome :=
  deliver do
    let ea ← s.effAddr m
    let sum := (s.reg (lowReg r)).toInt + (s.reg (modReg r)).toInt
    let t := s.setReg (lowReg r) (intWord sum)
    return (t.jumpIf (holdsZero rl (t.tested (lowReg r) (intWord sum))) ea).overflowCall s.pc
      (intOverflow sum)

/-- JRP, jump if register is positive (zero counts) (40_memory_reference.md R145). -/
def execJrp (r : Reg) (m : MemRef) (s : State) : Outcome :=
  jumpOn .ge r m s

/-- JRN, jump if register is negative (40_memory_reference.md R146). -/
def execJrn (r : Reg) (m : MemRef) (s : State) : Outcome :=
  jumpOn .lt r m s

/-- JRZ, jump if register is zero (40_memory_reference.md R147). -/
def execJrz (r : Reg) (m : MemRef) (s : State) : Outcome :=
  jumpOn .eq r m s

/-- JRF, jump if register is non-zero (40_memory_reference.md R148). -/
def execJrf (r : Reg) (m : MemRef) (s : State) : Outcome :=
  jumpOn .ne r m s

/-- JPM, modify and jump if positive (40_memory_reference.md R149). -/
def execJpm (r : BitVec 4) (m : MemRef) (s : State) : Outcome :=
  modifyJump .ge r m s

/-- JNM, modify and jump if negative (40_memory_reference.md R150). -/
def execJnm (r : BitVec 4) (m : MemRef) (s : State) : Outcome :=
  modifyJump .lt r m s

/-- JZM, modify and jump if zero (40_memory_reference.md R151). -/
def execJzm (r : BitVec 4) (m : MemRef) (s : State) : Outcome :=
  modifyJump .eq r m s

/-- JFM, modify and jump if non-zero (40_memory_reference.md R152). -/
def execJfm (r : BitVec 4) (m : MemRef) (s : State) : Outcome :=
  modifyJump .ne r m s

end Sys2Proof.Machine
end

