-- ==== Sys2Proof/Machine/Logic.lean ====
section
/-! DEFINITION. LRO and its mnemonics (41_inter_register.md R230 to R241). -/

namespace Sys2Proof.Machine

/-- One of the four logical operations (41_inter_register.md R230). -/
def logicOp (lo : LogicOp) (a b : Word) : Word :=
  match lo with
  | .zero => 0
  | .and => a &&& b
  | .xor => a ^^^ b
  | .or => a ||| b

/-- LRO for one setting: CA complements the operand of SRA, CB that of SRB (41_inter_register.md R230). -/
def logic (ca cb : Bool) (lo : LogicOp) (dr sra srb : Reg) (s : State) : Outcome :=
  let a := if ca then ~~~s.reg sra else s.reg sra
  let b := if cb then ~~~s.reg srb else s.reg srb
  .next (s.setReg dr (logicOp lo a b)).next

/-- LRO, Logical Register Operation, in its general form (41_inter_register.md R230, R241). -/
def execLro (ca cb : Bool) (lo : LogicOp) (dr sra srb : Reg) (s : State) : Outcome :=
  logic ca cb lo dr sra srb s

/-- SZR, set all zeroes (41_inter_register.md R231). -/
def execSzr (dr sra srb : Reg) (s : State) : Outcome :=
  logic false false .zero dr sra srb s

/-- RND, register AND (41_inter_register.md R232). -/
def execRnd (dr sra srb : Reg) (s : State) : Outcome :=
  logic false false .and dr sra srb s

/-- RNDA, register AND with the complement of SRA (41_inter_register.md R233). -/
def execRnda (dr sra srb : Reg) (s : State) : Outcome :=
  logic true false .and dr sra srb s

/-- RNDB, register AND with the complement of SRB (41_inter_register.md R234). -/
def execRndb (dr sra srb : Reg) (s : State) : Outcome :=
  logic false true .and dr sra srb s

/-- RXO, register exclusive OR (41_inter_register.md R235). -/
def execRxo (dr sra srb : Reg) (s : State) : Outcome :=
  logic false false .xor dr sra srb s

/-- RXOA, register exclusive OR with the complement of SRA (41_inter_register.md R236). -/
def execRxoa (dr sra srb : Reg) (s : State) : Outcome :=
  logic true false .xor dr sra srb s

/-- RXOB, register exclusive OR with the complement of SRB (41_inter_register.md R237). -/
def execRxob (dr sra srb : Reg) (s : State) : Outcome :=
  logic false true .xor dr sra srb s

/-- ROR, register OR (41_inter_register.md R238). -/
def execRor (dr sra srb : Reg) (s : State) : Outcome :=
  logic false false .or dr sra srb s

/-- RORA, register OR with the complement of SRA (41_inter_register.md R239). -/
def execRora (dr sra srb : Reg) (s : State) : Outcome :=
  logic true false .or dr sra srb s

/-- RORB, register OR with the complement of SRB (41_inter_register.md R240). -/
def execRorb (dr sra srb : Reg) (s : State) : Outcome :=
  logic false true .or dr sra srb s

end Sys2Proof.Machine
end

