-- ==== Sys2Proof/Machine/Shift.lean ====
section
/-! DEFINITION. SHR, SHD and their mnemonics (41_inter_register.md R205 to R218). -/

namespace Sys2Proof.Machine

/-- shift_right for a word of width w and a count below w (41_inter_register.md R205). -/
def shiftRight {w : Nat} (sm : ShiftMode) (v : BitVec w) (n : Nat) : BitVec w :=
  match sm with
  | .rotate => v.rotateRight n
  | .rotateAlt => v.rotateRight n
  | .arithmetic => v.sshiftRight n
  | .logical => v >>> n

/-- shift_left: an arithmetical left shift is the "same as logical" (41_inter_register.md R205). -/
def shiftLeft {w : Nat} (sm : ShiftMode) (v : BitVec w) (n : Nat) : BitVec w :=
  match sm with
  | .rotate => v.rotateLeft n
  | .rotateAlt => v.rotateLeft n
  | .arithmetic => v <<< n
  | .logical => v <<< n

/-- "If both L = 1 and R = 1, then the right will be performed first and then the left shift"; with
neither, the copy alone is done (41_inter_register.md R205, log 29). -/
def shifted {w : Nat} (l r : Bool) (sm : ShiftMode) (v : BitVec w) (n : Nat) : BitVec w :=
  let u := if r then shiftRight sm v n else v
  if l then shiftLeft sm u n else u

/-- SHR for one setting of L, R and SM (41_inter_register.md R205). -/
def shiftSingle (l r : Bool) (sm : ShiftMode) (dr sra : Reg) (sc : BitVec 5) (s : State) : Outcome :=
  .next (s.setReg dr (shifted l r sm (s.reg sra) sc.toNat)).next

/-- SHD for one setting of L, R and SM: the destination pair is tainted (41_inter_register.md R212). -/
def shiftDouble (l r : Bool) (sm : ShiftMode) (dfd srad : FDesignator) (sc : BitVec 6) (s : State) :
    Outcome :=
  .next (s.setTaintedFD dfd.reg (shifted l r sm (s.fd srad.reg) sc.toNat)).next

/-- SHR, Shift Register, in its general form (41_inter_register.md R205). -/
def execShr (l r : Bool) (sm : ShiftMode) (dr sra : Reg) (sc : BitVec 5) (s : State) : Outcome :=
  shiftSingle l r sm dr sra sc s

/-- SHD, Shift Double Precision Register, in its general form (41_inter_register.md R212). -/
def execShd (l r : Bool) (sm : ShiftMode) (dfd srad : FDesignator) (sc : BitVec 6) (s : State) :
    Outcome :=
  shiftDouble l r sm dfd srad sc s

/-- SLR, left rotational shift (41_inter_register.md R206). -/
def execSlr (dr sra : Reg) (sc : BitVec 5) (s : State) : Outcome :=
  shiftSingle true false .rotate dr sra sc s

/-- SRR, right rotational shift (41_inter_register.md R207). -/
def execSrr (dr sra : Reg) (sc : BitVec 5) (s : State) : Outcome :=
  shiftSingle false true .rotate dr sra sc s

/-- SLA, left arithmetical shift (41_inter_register.md R208). -/
def execSla (dr sra : Reg) (sc : BitVec 5) (s : State) : Outcome :=
  shiftSingle true false .arithmetic dr sra sc s

/-- SRA, right arithmetical shift (41_inter_register.md R209). -/
def execSra (dr sra : Reg) (sc : BitVec 5) (s : State) : Outcome :=
  shiftSingle false true .arithmetic dr sra sc s

/-- SLL, left logical shift (41_inter_register.md R210). -/
def execSll (dr sra : Reg) (sc : BitVec 5) (s : State) : Outcome :=
  shiftSingle true false .logical dr sra sc s

/-- SRL, right logical shift (41_inter_register.md R211). -/
def execSrl (dr sra : Reg) (sc : BitVec 5) (s : State) : Outcome :=
  shiftSingle false true .logical dr sra sc s

/-- SLRD, left rotational shift of a double register (41_inter_register.md R213). -/
def execSlrd (dfd srad : FDesignator) (sc : BitVec 6) (s : State) : Outcome :=
  shiftDouble true false .rotate dfd srad sc s

/-- SRRD, right rotational shift of a double register (41_inter_register.md R214). -/
def execSrrd (dfd srad : FDesignator) (sc : BitVec 6) (s : State) : Outcome :=
  shiftDouble false true .rotate dfd srad sc s

/-- SLAD, left arithmetical shift of a double register (41_inter_register.md R215). -/
def execSlad (dfd srad : FDesignator) (sc : BitVec 6) (s : State) : Outcome :=
  shiftDouble true false .arithmetic dfd srad sc s

/-- SRAD, right arithmetical shift of a double register (41_inter_register.md R216). -/
def execSrad (dfd srad : FDesignator) (sc : BitVec 6) (s : State) : Outcome :=
  shiftDouble false true .arithmetic dfd srad sc s

/-- SLLD, left logical shift of a double register (41_inter_register.md R217). -/
def execSlld (dfd srad : FDesignator) (sc : BitVec 6) (s : State) : Outcome :=
  shiftDouble true false .logical dfd srad sc s

/-- SRLD, right logical shift of a double register (41_inter_register.md R218). -/
def execSrld (dfd srad : FDesignator) (sc : BitVec 6) (s : State) : Outcome :=
  shiftDouble false true .logical dfd srad sc s

end Sys2Proof.Machine
end

