-- ==== Sys2Proof/Machine/Skip.lean ====
section
/-! DEFINITION. The register skips IRS and FRS and their mnemonics (41_inter_register.md R268 to R293). -/

namespace Sys2Proof.Machine

/-- IRS for one relation and function: the wrapped result is written, and the relation is on the result
even when DR is register 0 (41_inter_register.md R268). -/
def integerSkip (rl : Relation) (subtract : Bool) (dr sra srb : Reg) (s : State) : Outcome :=
  let t := sumTrue subtract (s.reg sra) (s.reg srb)
  .next (((s.setReg dr (intWord t)).skipIf (holdsZero rl (intWord t))).overflowCall s.pc
    (intOverflow t))

/-- IRS, Integer Register Skip, in its general form (41_inter_register.md R268). -/
def execIrs (rl : Relation) (subtract : Bool) (dr sra srb : Reg) (s : State) : Outcome :=
  integerSkip rl subtract dr sra srb s

/-- SGR, subtract registers and skip if result >= 0 (41_inter_register.md R269). -/
def execSgr (dr sra srb : Reg) (s : State) : Outcome :=
  integerSkip .ge true dr sra srb s

/-- ASG, add registers and skip if result >= 0 (41_inter_register.md R270). -/
def execAsg (dr sra srb : Reg) (s : State) : Outcome :=
  integerSkip .ge false dr sra srb s

/-- SLE, subtract registers and skip if result < 0 (41_inter_register.md R271). -/
def execSle (dr sra srb : Reg) (s : State) : Outcome :=
  integerSkip .lt true dr sra srb s

/-- ASL, add registers and skip if result < 0 (41_inter_register.md R272). -/
def execAsl (dr sra srb : Reg) (s : State) : Outcome :=
  integerSkip .lt false dr sra srb s

/-- SEQ, subtract registers and skip if result = 0 (41_inter_register.md R273). -/
def execSeq (dr sra srb : Reg) (s : State) : Outcome :=
  integerSkip .eq true dr sra srb s

/-- ASE, add registers and skip if result = 0 (41_inter_register.md R274). -/
def execAse (dr sra srb : Reg) (s : State) : Outcome :=
  integerSkip .eq false dr sra srb s

/-- SUE, subtract registers and skip if result != 0 (41_inter_register.md R275). -/
def execSue (dr sra srb : Reg) (s : State) : Outcome :=
  integerSkip .ne true dr sra srb s

/-- ASU, add registers and skip if result != 0 (41_inter_register.md R276). -/
def execAsu (dr sra srb : Reg) (s : State) : Outcome :=
  integerSkip .ne false dr sra srb s

/-- FRS for one relation, function and precision: the result is written with taint, its event goes to
the flags, and the relation is on the delivered result (41_inter_register.md R277). -/
def floatSkip (rl : Relation) (subtract : Bool) (p : Precision) (df : FReg) (sra srb : FDesignator)
    (s : State) : Outcome :=
  let res := addSub p subtract (s.freg p sra.reg) (s.freg p srb.reg)
  let t := (s.setTaintedFreg p df res.bits).note res.event
  .next (t.skipIf (floatHolds rl p (t.testedFreg p df res.bits)))

/-- FRS, Floating Register Skip, in its general form (41_inter_register.md R277). -/
def execFrs (rl : Relation) (subtract : Bool) (p : Precision) (df : FReg) (sra srb : FDesignator)
    (s : State) : Outcome :=
  floatSkip rl subtract p df sra srb s

/-- SGF, subtract floating registers and skip if result >= 0
(41_inter_register.md R278). -/
def execSgf (df : FReg) (sra srb : FDesignator) (s : State) : Outcome :=
  floatSkip .ge true .single df sra srb s

/-- ASGF, add floating registers and skip if result >= 0
(41_inter_register.md R279). -/
def execAsgf (df : FReg) (sra srb : FDesignator) (s : State) : Outcome :=
  floatSkip .ge false .single df sra srb s

/-- SLF, subtract floating registers and skip if result < 0
(41_inter_register.md R280). -/
def execSlf (df : FReg) (sra srb : FDesignator) (s : State) : Outcome :=
  floatSkip .lt true .single df sra srb s

/-- ASLF, add floating registers and skip if result < 0
(41_inter_register.md R281). -/
def execAslf (df : FReg) (sra srb : FDesignator) (s : State) : Outcome :=
  floatSkip .lt false .single df sra srb s

/-- SEF, subtract floating registers and skip if result = 0
(41_inter_register.md R282). -/
def execSef (df : FReg) (sra srb : FDesignator) (s : State) : Outcome :=
  floatSkip .eq true .single df sra srb s

/-- ASEF, add floating registers and skip if result = 0
(41_inter_register.md R283). -/
def execAsef (df : FReg) (sra srb : FDesignator) (s : State) : Outcome :=
  floatSkip .eq false .single df sra srb s

/-- SUF, subtract floating registers and skip if result != 0
(41_inter_register.md R284). -/
def execSuf (df : FReg) (sra srb : FDesignator) (s : State) : Outcome :=
  floatSkip .ne true .single df sra srb s

/-- ASUF, add floating registers and skip if result != 0
(41_inter_register.md R285). -/
def execAsuf (df : FReg) (sra srb : FDesignator) (s : State) : Outcome :=
  floatSkip .ne false .single df sra srb s

/-- SGD, subtract double precision registers and skip if result >= 0
(41_inter_register.md R286). -/
def execSgd (df : FReg) (sra srb : FDesignator) (s : State) : Outcome :=
  floatSkip .ge true .double df sra srb s

/-- AGFD, add double precision registers and skip if result >= 0
(41_inter_register.md R287). -/
def execAgfd (df : FReg) (sra srb : FDesignator) (s : State) : Outcome :=
  floatSkip .ge false .double df sra srb s

/-- SLD, subtract double precision registers and skip if result < 0
(41_inter_register.md R288). -/
def execSld (df : FReg) (sra srb : FDesignator) (s : State) : Outcome :=
  floatSkip .lt true .double df sra srb s

/-- ALFD, add double precision registers and skip if result < 0
(41_inter_register.md R289). -/
def execAlfd (df : FReg) (sra srb : FDesignator) (s : State) : Outcome :=
  floatSkip .lt false .double df sra srb s

/-- SED, subtract double precision registers and skip if result = 0
(41_inter_register.md R290). -/
def execSed (df : FReg) (sra srb : FDesignator) (s : State) : Outcome :=
  floatSkip .eq true .double df sra srb s

/-- AEFD, add double precision registers and skip if result = 0
(41_inter_register.md R291). -/
def execAefd (df : FReg) (sra srb : FDesignator) (s : State) : Outcome :=
  floatSkip .eq false .double df sra srb s

/-- SUD, subtract double precision registers and skip if result != 0
(41_inter_register.md R292). -/
def execSud (df : FReg) (sra srb : FDesignator) (s : State) : Outcome :=
  floatSkip .ne true .double df sra srb s

/-- AUFD, add double precision registers and skip if result != 0
(41_inter_register.md R293). -/
def execAufd (df : FReg) (sra srb : FDesignator) (s : State) : Outcome :=
  floatSkip .ne false .double df sra srb s

end Sys2Proof.Machine
end

