-- ==== Sys2Proof/Machine/System.lean ====
section
/-! DEFINITION. The monitor call, register input/output, and the two reserved function codes
(41_inter_register.md R201 to R204, R242; 40_memory_reference.md R158). -/

namespace Sys2Proof.Machine

/-- STOP, monitor call: P keeps the address of the STOP (41_inter_register.md R201, 60_exceptions.md
R370). -/
def execStop (code : BitVec 18) (s : State) : Outcome :=
  .next (s.monitorCall (.monitor code))

/-- RIO: read an external register to DR, or write SRA to it (41_inter_register.md R202). -/
def registerIO (write : Bool) (dr sra : Reg) (e : ExtReg) (s : State) : Outcome :=
  if write then .next (s.setExt e (s.reg sra)).next
  else .next (s.setReg dr (s.ext e)).next

/-- RIO, Register Input/Output, in its general form (41_inter_register.md R202). -/
def execRio (write : Bool) (dr sra : Reg) (e : ExtReg) (s : State) : Outcome :=
  registerIO write dr sra e s

/-- RIN, Register Input; the SRA field is not used (41_inter_register.md R203, 30_encoding.md R102). -/
def execRin (dr unused : Reg) (e : ExtReg) (s : State) : Outcome :=
  registerIO false dr unused e s

/-- ROUT, Register Output; the DR field is not used (41_inter_register.md R204, 30_encoding.md R102). -/
def execRout (unused sra : Reg) (e : ExtReg) (s : State) : Outcome :=
  registerIO true unused sra e s

/-- FC 21: "Instruction set aside for future extensions", "Not used"; no effect is defined
(40_memory_reference.md R158, log 19). -/
def execFc21 (_r : Reg) (_m : MemRef) (_s : State) : Outcome :=
  .refused .reservedFC21

/-- RFC 11: "saved for future usage", "Not used"; no behaviour is stated (41_inter_register.md R242,
log 19). -/
def execRfc11 (_rsc : BitVec 4) (_low : BitVec 18) (_s : State) : Outcome :=
  .refused .reservedRFC11

end Sys2Proof.Machine
end

