-- ==== Sys2Proof/Machine/Dispatch.lean ====
section
/-! DEFINITION. `exec`: one arm per instruction, each one direct call of its meaning. -/

namespace Sys2Proof.Machine

/-- What an instruction does. -/
def exec (i : Instr) (s : State) : Host.Outcome State Fault Refusal :=
  match i with
  | .rtj r m => Sys2Proof.Machine.execRtj r m s
  | .exc form x b d => Sys2Proof.Machine.execExc form x b d s
  | .min r m => Sys2Proof.Machine.execMin r m s
  | .crg r m => Sys2Proof.Machine.execCrg r m s
  | .crl r m => Sys2Proof.Machine.execCrl r m s
  | .cre r m => Sys2Proof.Machine.execCre r m s
  | .crd r m => Sys2Proof.Machine.execCrd r m s
  | .jrp r m => Sys2Proof.Machine.execJrp r m s
  | .jrn r m => Sys2Proof.Machine.execJrn r m s
  | .jrz r m => Sys2Proof.Machine.execJrz r m s
  | .jrf r m => Sys2Proof.Machine.execJrf r m s
  | .jpm r m => Sys2Proof.Machine.execJpm r m s
  | .jnm r m => Sys2Proof.Machine.execJnm r m s
  | .jzm r m => Sys2Proof.Machine.execJzm r m s
  | .jfm r m => Sys2Proof.Machine.execJfm r m s
  | .add r m => Sys2Proof.Machine.execAdd r m s
  | .sub r m => Sys2Proof.Machine.execSub r m s
  | .and r m => Sys2Proof.Machine.execAnd r m s
  | .ldr r m => Sys2Proof.Machine.execLdr r m s
  | .adm r m => Sys2Proof.Machine.execAdm r m s
  | .fc21 r m => Sys2Proof.Machine.execFc21 r m s
  | .xmr r m => Sys2Proof.Machine.execXmr r m s
  | .str r m => Sys2Proof.Machine.execStr r m s
  | .mpy r m => Sys2Proof.Machine.execMpy r m s
  | .div r m => Sys2Proof.Machine.execDiv r m s
  | .ldd fd m => Sys2Proof.Machine.execLdd fd m s
  | .std fd m => Sys2Proof.Machine.execStd fd m s
  | .fad f m => Sys2Proof.Machine.execFad f m s
  | .fadd f m => Sys2Proof.Machine.execFadd f m s
  | .fsb f m => Sys2Proof.Machine.execFsb f m s
  | .fsbd f m => Sys2Proof.Machine.execFsbd f m s
  | .fmu f m => Sys2Proof.Machine.execFmu f m s
  | .fmud f m => Sys2Proof.Machine.execFmud f m s
  | .fdv f m => Sys2Proof.Machine.execFdv f m s
  | .fdvd f m => Sys2Proof.Machine.execFdvd f m s
  | .stop code => Sys2Proof.Machine.execStop code s
  | .rio write dr sra ext => Sys2Proof.Machine.execRio write dr sra ext s
  | .rin dr unused ext => Sys2Proof.Machine.execRin dr unused ext s
  | .rout unused sra ext => Sys2Proof.Machine.execRout unused sra ext s
  | .shr l r sm dr sra sc => Sys2Proof.Machine.execShr l r sm dr sra sc s
  | .slr dr sra sc => Sys2Proof.Machine.execSlr dr sra sc s
  | .srr dr sra sc => Sys2Proof.Machine.execSrr dr sra sc s
  | .sla dr sra sc => Sys2Proof.Machine.execSla dr sra sc s
  | .sra dr sra sc => Sys2Proof.Machine.execSra dr sra sc s
  | .sll dr sra sc => Sys2Proof.Machine.execSll dr sra sc s
  | .srl dr sra sc => Sys2Proof.Machine.execSrl dr sra sc s
  | .shd l r sm dfd srad sc => Sys2Proof.Machine.execShd l r sm dfd srad sc s
  | .slrd dfd srad sc => Sys2Proof.Machine.execSlrd dfd srad sc s
  | .srrd dfd srad sc => Sys2Proof.Machine.execSrrd dfd srad sc s
  | .slad dfd srad sc => Sys2Proof.Machine.execSlad dfd srad sc s
  | .srad dfd srad sc => Sys2Proof.Machine.execSrad dfd srad sc s
  | .slld dfd srad sc => Sys2Proof.Machine.execSlld dfd srad sc s
  | .srld dfd srad sc => Sys2Proof.Machine.execSrld dfd srad sc s
  | .bst dr sra bn => Sys2Proof.Machine.execBst dr sra bn s
  | .bcm dr sra bn => Sys2Proof.Machine.execBcm dr sra bn s
  | .bcl dr sra bn => Sys2Proof.Machine.execBcl dr sra bn s
  | .bsz dr sra bn => Sys2Proof.Machine.execBsz dr sra bn s
  | .bso dr sra bn => Sys2Proof.Machine.execBso dr sra bn s
  | .fix dr f => Sys2Proof.Machine.execFix dr f s
  | .fir dr f => Sys2Proof.Machine.execFir dr f s
  | .fixd dr f => Sys2Proof.Machine.execFixd dr f s
  | .fird dr f => Sys2Proof.Machine.execFird dr f s
  | .flo f sra => Sys2Proof.Machine.execFlo f sra s
  | .flod f sra => Sys2Proof.Machine.execFlod f sra s
  | .lro ca cb lo dr sra srb => Sys2Proof.Machine.execLro ca cb lo dr sra srb s
  | .szr dr sra srb => Sys2Proof.Machine.execSzr dr sra srb s
  | .rnd dr sra srb => Sys2Proof.Machine.execRnd dr sra srb s
  | .rnda dr sra srb => Sys2Proof.Machine.execRnda dr sra srb s
  | .rndb dr sra srb => Sys2Proof.Machine.execRndb dr sra srb s
  | .rxo dr sra srb => Sys2Proof.Machine.execRxo dr sra srb s
  | .rxoa dr sra srb => Sys2Proof.Machine.execRxoa dr sra srb s
  | .rxob dr sra srb => Sys2Proof.Machine.execRxob dr sra srb s
  | .ror dr sra srb => Sys2Proof.Machine.execRor dr sra srb s
  | .rora dr sra srb => Sys2Proof.Machine.execRora dr sra srb s
  | .rorb dr sra srb => Sys2Proof.Machine.execRorb dr sra srb s
  | .rfc11 rsc low => Sys2Proof.Machine.execRfc11 rsc low s
  | .iroAddSub sc ac subtract dr sra srb => Sys2Proof.Machine.execIroAddSub sc ac subtract dr sra srb s
  | .iroMulDiv divide dr sra srb => Sys2Proof.Machine.execIroMulDiv divide dr sra srb s
  | .rad dr sra srb => Sys2Proof.Machine.execRad dr sra srb s
  | .rsb dr sra srb => Sys2Proof.Machine.execRsb dr sra srb s
  | .rmu dr sra srb => Sys2Proof.Machine.execRmu dr sra srb s
  | .rdv dr sra srb => Sys2Proof.Machine.execRdv dr sra srb s
  | .fro op p df sra srb => Sys2Proof.Machine.execFro op p df sra srb s
  | .raf df sra srb => Sys2Proof.Machine.execRaf df sra srb s
  | .rsf df sra srb => Sys2Proof.Machine.execRsf df sra srb s
  | .rmf df sra srb => Sys2Proof.Machine.execRmf df sra srb s
  | .rdf df sra srb => Sys2Proof.Machine.execRdf df sra srb s
  | .rafd df sra srb => Sys2Proof.Machine.execRafd df sra srb s
  | .rsfd df sra srb => Sys2Proof.Machine.execRsfd df sra srb s
  | .rmfd df sra srb => Sys2Proof.Machine.execRmfd df sra srb s
  | .rdfd df sra srb => Sys2Proof.Machine.execRdfd df sra srb s
  | .irs rl subtract dr sra srb => Sys2Proof.Machine.execIrs rl subtract dr sra srb s
  | .sgr dr sra srb => Sys2Proof.Machine.execSgr dr sra srb s
  | .asg dr sra srb => Sys2Proof.Machine.execAsg dr sra srb s
  | .sle dr sra srb => Sys2Proof.Machine.execSle dr sra srb s
  | .asl dr sra srb => Sys2Proof.Machine.execAsl dr sra srb s
  | .seq dr sra srb => Sys2Proof.Machine.execSeq dr sra srb s
  | .ase dr sra srb => Sys2Proof.Machine.execAse dr sra srb s
  | .sue dr sra srb => Sys2Proof.Machine.execSue dr sra srb s
  | .asu dr sra srb => Sys2Proof.Machine.execAsu dr sra srb s
  | .frs rl subtract p df sra srb => Sys2Proof.Machine.execFrs rl subtract p df sra srb s
  | .sgf df sra srb => Sys2Proof.Machine.execSgf df sra srb s
  | .asgf df sra srb => Sys2Proof.Machine.execAsgf df sra srb s
  | .slf df sra srb => Sys2Proof.Machine.execSlf df sra srb s
  | .aslf df sra srb => Sys2Proof.Machine.execAslf df sra srb s
  | .sef df sra srb => Sys2Proof.Machine.execSef df sra srb s
  | .asef df sra srb => Sys2Proof.Machine.execAsef df sra srb s
  | .suf df sra srb => Sys2Proof.Machine.execSuf df sra srb s
  | .asuf df sra srb => Sys2Proof.Machine.execAsuf df sra srb s
  | .sgd df sra srb => Sys2Proof.Machine.execSgd df sra srb s
  | .agfd df sra srb => Sys2Proof.Machine.execAgfd df sra srb s
  | .sld df sra srb => Sys2Proof.Machine.execSld df sra srb s
  | .alfd df sra srb => Sys2Proof.Machine.execAlfd df sra srb s
  | .sed df sra srb => Sys2Proof.Machine.execSed df sra srb s
  | .aefd df sra srb => Sys2Proof.Machine.execAefd df sra srb s
  | .sud df sra srb => Sys2Proof.Machine.execSud df sra srb s
  | .aufd df sra srb => Sys2Proof.Machine.execAufd df sra srb s
  | .dlr lf dr a => Sys2Proof.Machine.execDlr lf dr a s
  | .dlrClear dr a => Sys2Proof.Machine.execDlrClear dr a s
  | .xora dr a => Sys2Proof.Machine.execXora dr a s
  | .anda dr a => Sys2Proof.Machine.execAnda dr a s
  | .ora dr a => Sys2Proof.Machine.execOra dr a s
  | .dar af dr a => Sys2Proof.Machine.execDar af dr a s
  | .seta dr a => Sys2Proof.Machine.execSeta dr a s
  | .seca dr a => Sys2Proof.Machine.execSeca dr a s
  | .adda dr a => Sys2Proof.Machine.execAdda dr a s
  | .adca dr a => Sys2Proof.Machine.execAdca dr a s
  | .dsk cm rl dr a => Sys2Proof.Machine.execDsk cm rl dr a s
  | .ddp dr a => Sys2Proof.Machine.execDdp dr a s
  | .ddn dr a => Sys2Proof.Machine.execDdn dr a s
  | .ddz dr a => Sys2Proof.Machine.execDdz dr a s
  | .ddf dr a => Sys2Proof.Machine.execDdf dr a s
  | .dsp dr a => Sys2Proof.Machine.execDsp dr a s
  | .dsn dr a => Sys2Proof.Machine.execDsn dr a s
  | .dsz dr a => Sys2Proof.Machine.execDsz dr a s
  | .dsf dr a => Sys2Proof.Machine.execDsf dr a s

end Sys2Proof.Machine
end

