-- ==== Sys2Proof/Machine/Step.lean ====
section
/-! DEFINITION. One step of the machine, and how a word comes to stand where the next step fetches. -/

namespace Sys2Proof.Machine

/-- One step (20_memory.md R75): a stopped CPU executes nothing (60_exceptions.md R377, log 31); a
running one fetches a word, holds it in IR with the buffer used up, and executes it. -/
def step (s : State) : Host.Outcome State Fault Refusal :=
  match s.run with
  | .stopped _ => .next s
  | .running =>
    match s.fetch with
    | .error h => deliver (.error h)
    | .ok w =>
      match decodeWord w with
      | .error u => .refused (.undefinedWord u)
      | .ok i => exec i (s.issue w)

/-- `s` with the word of a table row stored at P, to be fetched by the next step: the CPU is running and
no old word is buffered (log 34). -/
def State.withFetchWord (s : State) (nbits w : Nat) : State :=
  { s with
    mem := s.mem.writeWord s.pc.toNat (BitVec.ofNat 32 (w % 2 ^ nbits))
    run := .running
    nib := none }

end Sys2Proof.Machine
end

