-- ==== Sys2Proof/Safety.lean ====
section
/-! DEFINITION. The terms in which claims are made: the invariant of the machine's states, the frame of
an instruction (what it may change), how it leaves P, when it calls the monitor, which instructions
move which data, the chain of indirect addresses, and the value of a floating word. -/

namespace Sys2Proof

open Sys2Proof.Machine

/-! ## The invariant -/

/-- What every step keeps: memory in its canonical form and inside MEM_WORDS (20_memory.md R60, R61),
MEM_WORDS in its range (R61), the cells behind GR_0 at their reset value (10_state.md R22, R38), and a
buffered word only at P (20_memory.md R75: it is the word at a + 1, and the machine continues there). -/
structure MachineInv (s : State) : Prop where
  memWf : s.mem.wf = true
  memInside : ∀ c ∈ s.mem, c.1 < 4 * s.params.memWords
  memWordsPos : 1 ≤ s.params.memWords
  memWordsMax : s.params.memWords ≤ 2 ^ 32
  cellZero : s.regs[0] = Config.resetRegister
  taintZero : s.taint[0] = false
  buffer : ∀ b, s.nib = some b → b.addr = s.pc

/-! ## Frames -/

/-- The parts of the state other than P, the buffer and the general registers. -/
inductive Part where
  | memory
  | regOR
  | regRR
  | cb
  | flags
  | run
  deriving DecidableEq, Repr

/-- From `s` to `t` nothing changes but P, the next-instruction buffer, the general registers in `rs`
(their taint included) and the parts in `ps`. Memory is compared byte by byte. -/
structure Unchanged (s t : State) (rs : List Reg) (ps : List Part) : Prop where
  regs : ∀ r, r ∉ rs → t.reg r = s.reg r
  taint : ∀ b : BitVec 4, lowReg b ∉ rs → t.isTainted b = s.isTainted b
  memory : Part.memory ∉ ps → ∀ a : Nat, t.mem.readByte a = s.mem.readByte a
  regOR : Part.regOR ∉ ps → t.regOR = s.regOR
  regRR : Part.regRR ∉ ps → t.regRR = s.regRR
  cb : Part.cb ∉ ps → t.cb = s.cb
  ovf : Part.flags ∉ ps → t.ovf = s.ovf
  unf : Part.flags ∉ ps → t.unf = s.unf
  run : Part.run ∉ ps → t.run = s.run
  ir : t.ir = s.ir
  params : t.params = s.params

/-- `t` is a state in which register `r` was written with `v`: GR_0 reads zero (10_state.md R22), any
other register reads `v`, and a base or index register has the given taint (R38), GR_0 none. -/
structure Wrote (t : State) (r : Reg) (v : Word) (tainted : Bool) : Prop where
  value : t.reg r = if r = 0#6 then 0#32 else v
  taint : ∀ b : BitVec 4, lowReg b = r → t.isTainted b = (tainted && b != 0#4)

/-- Outside the `n` words at word address `a` (each address mod 2^32), every byte of memory reads in
`t` as it does in `s`. -/
def MemoryBut (s t : State) (a : Word) (n : Nat) : Prop :=
  ∀ x : Nat, (∀ k < n, x / 4 ≠ (a + BitVec.ofNat 32 k).toNat) → t.mem.readByte x = s.mem.readByte x

/-- The machine continues at P + 1, and a buffered word stays. -/
def Continues (s t : State) : Prop :=
  t.pc = s.pc + 1 ∧ t.nib = s.nib

/-- P + 2 when `c` holds, else P + 1 (00_scope.md section 5.1). -/
def SkipsIf (s t : State) (c : Prop) : Prop :=
  (c → t.pc = s.pc + 2 ∧ t.nib = none) ∧ (¬c → Continues s t)

/-- The jump to `a` when `c` holds, else P + 1. -/
def JumpsIf (s t : State) (c : Prop) (a : Word) : Prop :=
  (c → t.pc = a ∧ t.nib = none) ∧ (¬c → Continues s t)

/-- A true integer result outside -2^31 .. 2^31 - 1 (40_memory_reference.md R136). -/
def OutOfRange (t : Int) : Prop :=
  t < -2 ^ 31 ∨ 2 ^ 31 ≤ t

/-- The run state after an instruction at `s` whose integer result overflows or does not: stopped with
cause (Overflow, P) exactly when it overflows and int_overflow_action is monitor_call
(60_exceptions.md R372). -/
def MonitorOn (s t : State) (overflow : Prop) : Prop :=
  (overflow ∧ s.params.overflowAction = .monitorCall → t.run = .stopped (.overflow s.pc)) ∧
    (¬(overflow ∧ s.params.overflowAction = .monitorCall) → t.run = s.run)

/-- A relation between two integers (41_inter_register.md R268, 42_argument.md R310). -/
def Related (rl : Relation) (a b : Int) : Prop :=
  match rl with
  | .ge => b ≤ a
  | .lt => a < b
  | .eq => a = b
  | .ne => a ≠ b

/-- The next-instruction buffer after a store to word `a` by an instruction at P that goes on at P + 1:
the old word of P + 1 if that is the word stored to (20_memory.md R75). -/
def BuffersOld (s t : State) (a : Word) : Prop :=
  t.pc = s.pc + 1 ∧
    t.nib = if a = s.pc + 1 then some ⟨a, s.mem.readWord a.toNat⟩ else s.nib

/-! ## Addresses -/

/-- `IndirectChain s n a ea`: from the word address `a`, reading exactly `n` indirect address words,
each inside memory, with bits 22-20 zero and untainted base and index, gives `ea`; the last one and
only the last has its I flag clear (40_memory_reference.md R131). -/
inductive IndirectChain (s : State) : Nat → Word → Word → Prop where
  | last {a : Word} (w : Word) (inside : a.toNat < s.params.memWords)
      (word : w = s.mem.readWord a.toNat) (zero : w.extractLsb' 20 3 = 0#3)
      (base : s.isTainted (w.extractLsb' 23 4) = false)
      (index : s.isTainted (w.extractLsb' 27 4) = false) (flag : w.getLsbD 31 = false) :
      IndirectChain s 1 a (s.reg (lowReg (w.extractLsb' 23 4)) + s.reg (lowReg (w.extractLsb' 27 4)) +
        (w.extractLsb' 0 20).setWidth 32)
  | more {a ea : Word} {n : Nat} (w : Word) (inside : a.toNat < s.params.memWords)
      (word : w = s.mem.readWord a.toNat) (zero : w.extractLsb' 20 3 = 0#3)
      (base : s.isTainted (w.extractLsb' 23 4) = false)
      (index : s.isTainted (w.extractLsb' 27 4) = false) (flag : w.getLsbD 31 = true)
      (rest : IndirectChain s n
        (s.reg (lowReg (w.extractLsb' 23 4)) + s.reg (lowReg (w.extractLsb' 27 4)) +
          (w.extractLsb' 0 20).setWidth 32) ea) :
      IndirectChain s (n + 1) a ea

/-- `IndirectReach s n a b`: from the word address `a`, reading `n` indirect address words, each inside
memory, with bits 22-20 zero, untainted base and index and the I flag set, leads to the address `b` of
the next one (40_memory_reference.md R131). -/
inductive IndirectReach (s : State) : Nat → Word → Word → Prop where
  | here {a : Word} : IndirectReach s 0 a a
  | more {a b : Word} {n : Nat} (w : Word) (inside : a.toNat < s.params.memWords)
      (word : w = s.mem.readWord a.toNat) (zero : w.extractLsb' 20 3 = 0#3)
      (base : s.isTainted (w.extractLsb' 23 4) = false)
      (index : s.isTainted (w.extractLsb' 27 4) = false) (flag : w.getLsbD 31 = true)
      (rest : IndirectReach s n
        (s.reg (lowReg (w.extractLsb' 23 4)) + s.reg (lowReg (w.extractLsb' 27 4)) +
          (w.extractLsb' 0 20).setWidth 32) b) :
      IndirectReach s (n + 1) a b

/-! ## Classes of instructions -/

/-- The instruction whose effect `i` has at `s`: for EXC the one that the word it reaches decodes to
(40_memory_reference.md R139), EXC itself where there is none. -/
def executed (i : Instr) (s : State) : Instr :=
  match i with
  | .exc form x b d =>
    match s.effAddr ⟨false, x, b, d⟩ with
    | .error _ => i
    | .ok ea =>
      match decodeWord (match form with | .memory => s.mem.readWord ea.toNat | .immediate => ea) with
      | .ok j => j
      | .error _ => i
  | _ => i

/-- The address fields of a memory reference instruction other than EXC and the reserved FC 21. -/
def memRef : Instr → Option MemRef
  | .rtj _ m | .min _ m | .crg _ m | .crl _ m | .cre _ m | .crd _ m | .jrp _ m | .jrn _ m | .jrz _ m
  | .jrf _ m | .jpm _ m | .jnm _ m | .jzm _ m | .jfm _ m | .add _ m | .sub _ m | .and _ m | .ldr _ m
  | .adm _ m | .xmr _ m | .str _ m | .mpy _ m | .div _ m | .ldd _ m | .std _ m | .fad _ m
  | .fadd _ m | .fsb _ m | .fsbd _ m | .fmu _ m | .fmud _ m | .fdv _ m | .fdvd _ m => some m
  | _ => none

/-- The inter-register and argument instructions, RFC 11 apart: they reach no memory
(41_inter_register.md heading, 42_argument.md R300). -/
def registerOnly : Instr → Bool
  | .exc .. | .fc21 .. | .rfc11 .. => false
  | i => (memRef i).isNone

/-- The word addresses that an instruction with effective address `ea` writes (20_memory.md R65). -/
def writtenWords (i : Instr) (ea : Word) : List Word :=
  match i with
  | .min .. | .adm .. | .xmr .. | .str .. => [ea]
  | .std .. => [ea, ea + 1]
  | _ => []

/-- The memory reference instructions with a double word operand at Ea, Ea + 1 (20_memory.md R65). -/
def doubleOperand : Instr → Bool
  | .ldd .. | .std .. | .fadd .. | .fsbd .. | .fmud .. | .fdvd .. => true
  | _ => false

/-- The memory reference instructions that access the word at Ea as an operand (20_memory.md R65), with
what they do to it first. -/
def operandAccess : Instr → Option Access
  | .str .. | .std .. => some .write
  | .rtj .. | .jrp .. | .jrn .. | .jrz .. | .jrf .. | .jpm .. | .jnm .. | .jzm .. | .jfm .. => none
  | i => if (memRef i).isSome then some .read else none

/-- The instructions whose P rule is not P + 1 (10_state.md R29): the stop, the jumps, the skips; and EXC,
which follows the word it executes. -/
def controls : Instr → Bool
  | .stop .. | .exc .. | .rtj .. | .jrp .. | .jrn .. | .jrz .. | .jrf .. | .jpm .. | .jnm .. | .jzm ..
  | .jfm .. | .min .. | .crg .. | .crl .. | .cre .. | .crd .. | .bsz .. | .bso .. | .irs .. | .sgr ..
  | .asg .. | .sle .. | .asl .. | .seq .. | .ase .. | .sue .. | .asu .. | .frs .. | .sgf .. | .asgf ..
  | .slf .. | .aslf .. | .sef .. | .asef .. | .suf .. | .asuf .. | .sgd .. | .agfd .. | .sld ..
  | .alfd .. | .sed .. | .aefd .. | .sud .. | .aufd .. | .dsk .. | .ddp .. | .ddn .. | .ddz .. | .ddf ..
  | .dsp .. | .dsn .. | .dsz .. | .dsf .. => true
  | _ => false

/-- EXC. -/
def isExc : Instr → Bool
  | .exc .. => true
  | _ => false

/-- Writes OR (10_state.md R31): the integer multiplies, and RIO to external register 2. -/
def writesOR : Instr → Bool
  | .mpy .. | .rmu .. | .iroMulDiv false .. | .rio true _ _ .overflow | .rout _ _ .overflow => true
  | _ => false

/-- Writes RR (10_state.md R32): the integer divides, and RIO to external register 3. -/
def writesRR : Instr → Bool
  | .div .. | .rdv .. | .iroMulDiv true .. | .rio true _ _ .remainder | .rout _ _ .remainder => true
  | _ => false

/-- Writes CB (10_state.md R33): IRO add and subtract with SCf. -/
def writesCB : Instr → Bool
  | .iroAddSub true .. => true
  | _ => false

/-- Reads CB (10_state.md R33): IRO add and subtract with ACf. -/
def readsCB : Instr → Bool
  | .iroAddSub _ true .. => true
  | _ => false

/-- Can signal IntOverflow (40_memory_reference.md R136). -/
def integerArithmetic : Instr → Bool
  | .min .. | .add .. | .sub .. | .adm .. | .mpy .. | .div .. | .jpm .. | .jnm .. | .jzm .. | .jfm ..
  | .rad .. | .rsb .. | .rmu .. | .rdv .. | .iroAddSub .. | .iroMulDiv .. | .irs .. | .sgr .. | .asg ..
  | .sle .. | .asl .. | .seq .. | .ase .. | .sue .. | .asu .. | .seca .. | .adda .. | .adca ..
  | .dar .. => true
  | _ => false

/-- Can set OVF (10_state.md R34): floating arithmetic, and the converts to integer. -/
def floating : Instr → Bool
  | .fad .. | .fadd .. | .fsb .. | .fsbd .. | .fmu .. | .fmud .. | .fdv .. | .fdvd .. | .fro ..
  | .raf .. | .rsf .. | .rmf .. | .rdf .. | .rafd .. | .rsfd .. | .rmfd .. | .rdfd .. | .frs ..
  | .sgf .. | .asgf .. | .slf .. | .aslf .. | .sef .. | .asef .. | .suf .. | .asuf .. | .sgd ..
  | .agfd .. | .sld .. | .alfd .. | .sed .. | .aefd .. | .sud .. | .aufd .. => true
  | _ => false

/-- The converts to integer (41_inter_register.md R224 to R227). -/
def convertsToInteger : Instr → Bool
  | .fix .. | .fir .. | .fixd .. | .fird .. => true
  | _ => false

/-- The double shifts (41_inter_register.md R212 to R218). -/
def shiftsDouble : Instr → Bool
  | .shd .. | .slrd .. | .srrd .. | .slad .. | .srad .. | .slld .. | .srld .. => true
  | _ => false

/-! ## Shifts and floating values, bit by bit and as numbers -/

/-- Bit i of a right shift by n (41_inter_register.md R205, shift_right). -/
def rightBit {w : Nat} (sm : ShiftMode) (v : BitVec w) (n i : Nat) : Bool :=
  match sm with
  | .rotate | .rotateAlt => v.getLsbD ((i + n) % w)
  | .arithmetic => if i + n < w then v.getLsbD (i + n) else v.getLsbD (w - 1)
  | .logical => if i + n < w then v.getLsbD (i + n) else false

/-- Bit i of a left shift by n (41_inter_register.md R205, shift_left). -/
def leftBit {w : Nat} (sm : ShiftMode) (v : BitVec w) (n i : Nat) : Bool :=
  match sm with
  | .rotate | .rotateAlt => v.getLsbD ((i + (w - n)) % w)
  | .arithmetic | .logical => if n ≤ i then v.getLsbD (i - n) else false

/-- `u` is what SHR or SHD makes of `v`: right first, then left (41_inter_register.md R205). -/
def ShiftedTo {w : Nat} (l r : Bool) (sm : ShiftMode) (n : Nat) (v u : BitVec w) : Prop :=
  ∃ m : BitVec w,
    (∀ i < w, m.getLsbD i = if r then rightBit sm v n i else v.getLsbD i) ∧
    (∀ i < w, u.getLsbD i = if l then leftBit sm m n i else m.getLsbD i)

/-- The value of a floating word times 2^(256 + p), which is an integer: (-1)^s M 2^e
(43_floating_numerics.md R323). -/
def scaledValue (p : Precision) (w : Nat) : Int :=
  match unpack p w with
  | none => 0
  | some u => (if u.s then -1 else 1) * (u.m * 2 ^ u.e : Nat)

/-- 2^(256 + p), the scale of `scaledValue`. -/
def floatScale (p : Precision) : Nat :=
  2 ^ (256 + mantissaBits p)

/-- The exact result of a floating operation, in the scale of `scaledValue`, is
`exactNum op p a b / exactDen op p b`. -/
def exactNum (op : ArithOp) (p : Precision) (a b : Nat) : Int :=
  match op with
  | .add => scaledValue p a + scaledValue p b
  | .sub => scaledValue p a - scaledValue p b
  | .mul => scaledValue p a * scaledValue p b
  | .div => scaledValue p a * floatScale p * (scaledValue p b).sign

/-- The denominator of the exact result. -/
def exactDen (op : ArithOp) (p : Precision) (b : Nat) : Nat :=
  match op with
  | .add | .sub => 1
  | .mul => floatScale p
  | .div => (scaledValue p b).natAbs

/-- The least magnitude, in the scale of `scaledValue`, whose delivered result would have exponent 512:
2^(511 + p) for the truncated products and quotients, half a unit of the last place less for sums and
differences, which are rounded (43_floating_numerics.md R330, R333, R334, R336). -/
def overflowLimit (op : ArithOp) (p : Precision) : Nat :=
  match op with
  | .add | .sub => 2 ^ (511 + mantissaBits p) - 2 ^ 510
  | .mul | .div => 2 ^ (511 + mantissaBits p)

end Sys2Proof
end

