-- ==== Sys2Proof/Certificates/Slice0/Obligations.lean ====
section
/-! DEFINITION. The statements for the provers, from the numbered rules of spec/. A statement about an
instruction of the memory reference group takes the effective address its meaning computes,
`s.effAddr m`, as `ea`; lists of triples name the instructions a statement covers. In every statement,
that a write of GR_0 is discarded rests on log 22, whether a written register is tainted on log 17, what
the next-instruction buffer holds on log 21, and sums of addresses and of P mod 2^32 on log 24. -/

open Sys2Proof Sys2Proof.Machine

/-! ## Reset and the invariant -/

/-- 10_state.md R42 and 70_reset_and_hazards.md R400: running, flags clear, nothing buffered, nothing
tainted, GR_0 zero. That P, IR, OR, RR, CB, every other register, every byte of memory and the open
parameters have the value the model names is the model's choice (log 1, log 3, log 4, log 5). -/
def Obligations.ResetState : Prop :=
  State.reset.run = .running ∧ State.reset.ovf = false ∧ State.reset.unf = false ∧
    State.reset.nib = none ∧ State.reset.pc = Config.startP ∧ State.reset.reg 0 = 0 ∧
    State.reset.ir = Config.resetRegister ∧ State.reset.regOR = Config.resetRegister ∧
    State.reset.regRR = Config.resetRegister ∧ State.reset.cb = false ∧
    State.reset.params = Config.resetParams ∧
    (∀ b, State.reset.isTainted b = false) ∧
    (∀ r, r ≠ 0 → State.reset.reg r = Config.resetRegister) ∧
    ∀ a, State.reset.mem.readByte a = Config.unlistedByte

/-- The reset state meets the invariant. -/
def Obligations.ResetInv : Prop :=
  MachineInv State.reset

/-- Every step keeps the invariant: canonical memory inside MEM_WORDS (20_memory.md R60, R61), the cells
behind GR_0 (10_state.md R22), and a buffered word only at P (20_memory.md R75). -/
def Obligations.StepKeepsInv : Prop :=
  ∀ s t, MachineInv s → step s = .next t → MachineInv t

/-- 10_state.md R22: GR_0, FR_0, BR_0 and XR_0 read zero and a write to GR_0 is discarded; FD_0 reads as
floating zero with GR_16 for its right word, the one word that a write to it changes. That writes are
discarded is the spec's decision D1 (log 22). -/
def Obligations.RegisterZero : Prop :=
  ∀ (s : State) (v : Word) (d : DWord) (x : Bool),
    s.reg 0 = 0 ∧ s.f ⟨false, 0⟩ = 0 ∧ s.addressReg 0 = .ok 0 ∧ s.writeReg 0 v x = s ∧
      s.fd ⟨false, 0⟩ = 0#32 ++ s.reg 16 ∧ unpack .double (s.fd ⟨false, 0⟩).toNat = none ∧
      (s.setFD ⟨false, 0⟩ d).reg 16 = d.extractLsb' 0 32 ∧
      ∀ r, r ≠ 16 → (s.setFD ⟨false, 0⟩ d).reg r = s.reg r

/-- 20_memory.md R63: a double word is the words `a` and `a + 1` mod 2^32, the left portion word first,
both inside MEM_WORDS or the access does not succeed (R61; that it faults is the model's choice, log 6);
a single access of `a` sees the high half. -/
def Obligations.DoubleWordOrder : Prop :=
  ∀ (s : State) (a hi lo : Word), s.mem.wf = true →
    ((∃ t, s.store2 a hi lo = .ok t) ↔
      a.toNat < s.params.memWords ∧ (a + 1).toNat < s.params.memWords) ∧
    ((∃ v, s.load2 a = .ok v) ↔
      a.toNat < s.params.memWords ∧ (a + 1).toNat < s.params.memWords) ∧
    (∀ v, s.load2 a = .ok v →
      s.load .read a = .ok (v.extractLsb' 32 32) ∧ s.load .read (a + 1) = .ok (v.extractLsb' 0 32)) ∧
    ∀ t, s.store2 a hi lo = .ok t →
      t.load2 a = .ok (hi ++ lo) ∧ t.load .read a = .ok hi ∧ t.load .read (a + 1) = .ok lo ∧
        MemoryBut s t a 2

/-! ## Encoding -/

/-- Every well-formed instruction, with every operand at every value, decodes from its own word. -/
def Obligations.DecodeEncode : Prop :=
  ∀ i : Instr, i.wellFormed = true → decodeWord (encode i) = .ok i

/-- No bit of a word that decodes is dropped: its instruction encodes to that word. -/
def Obligations.EncodeDecode : Prop :=
  ∀ (w : Word) (i : Instr), decodeWord w = .ok i → encode i = w ∧ i.wellFormed = true

/-- 30_encoding.md R104, R106: a parent instruction's word at a mnemonic's setting decodes to the
mnemonic, and the mnemonic does what the parent does at that setting. -/
def Obligations.ParentIsMnemonic : Prop :=
  ∀ i : Instr, decodeWord (encode i) = .ok i.canon ∧ ∀ s, exec i.canon s = exec i s

/-- The words that are no instruction: those of the table of 30_encoding.md R101, among them EXC with
I = 1 or R of 2 or more (40_memory_reference.md R139), and the IRO multiply and divide with SCf or ACf of
41_inter_register.md R253, R254. That they are refused is the spec's decision D11 and its like (log 19,
38, 39); FC 21 and RFC 11 decode, and are refused when executed (log 19). -/
def Obligations.DefinedWords : Prop :=
  ∀ w : Word, (∃ i, decodeWord w = .ok i) ↔
    let fc := w.extractLsb' 18 5
    let rfc := w.extractLsb' 27 4
    let rsc := w.extractLsb' 23 4
    let low := w.extractLsb' 0 6
    ¬ ((fc = 2 ∧ (w.getLsbD 31 = true ∨ 2 ≤ w.extractLsb' 12 6)) ∨
      (12 ≤ fc ∧ fc ≤ 15 ∧ 16 ≤ w.extractLsb' 12 6) ∨
      (fc = 0 ∧ w.getLsbD 31 = false ∧
        ((rfc = 0 ∧ rsc ≠ 0) ∨
          (rfc = 1 ∧ (2 ≤ rsc ∨ (low ≠ 2 ∧ low ≠ 3))) ∨
          (rfc = 2 ∧ 32 ≤ low) ∨
          (rfc = 4 ∧ rsc ≠ 0b1100 ∧ rsc ≠ 0b1101) ∨
          (5 ≤ rfc ∧ rfc ≤ 7 ∧ rsc ≠ 0b1100) ∨
          (4 ≤ rfc ∧ rfc ≤ 7 ∧ 32 ≤ low) ∨
          (rfc = 8 ∧ (rsc ≠ 0 ∧ rsc ≠ 0b1000 ∨ low ≠ 0)) ∨
          (rfc = 9 ∧ (rsc ≠ 0b0010 ∨ low ≠ 0)) ∨
          (rfc = 12 ∧ w.getLsbD 24 = true ∧ w.extractLsb' 25 2 ≠ 0) ∨
          (rfc = 13 ∧ w.extractLsb' 25 2 ≠ 0) ∨
          (14 ≤ rfc ∧ w.getLsbD 24 = true))))

/-- Words written out in the worked examples of the spec decode to the instructions they stand for. -/
def Obligations.DecodedWords : Prop :=
  decodeWord 0x00045028 = .ok (.rtj 5 ⟨false, 0, 0, 40⟩) ∧
    decodeWord 0x01881000 = .ok (.exc .immediate 0 3 0) ∧
    decodeWord 0x00341013 = .ok (.jnm 1 ⟨false, 0, 0, 19⟩) ∧
    decodeWord 0x006911F4 = .ok (.ldd ⟨⟨false, 1⟩, true⟩ ⟨false, 0, 0, 500⟩) ∧
    decodeWord 0x0002ABCD = .ok (.stop 0x2ABCD) ∧
    decodeWord 0x08007002 = .ok (.rin 7 0 .overflow) ∧
    decodeWord 0x17803084 = .ok (.shr true true .logical 3 2 4) ∧
    decodeWord 0x1B812464 = .ok (.srld ⟨⟨false, 2⟩, true⟩ ⟨⟨false, 1⟩, true⟩ 36) ∧
    decodeWord 0x44003480 = .ok (.fird 3 ⟨false, 2⟩) ∧
    decodeWord 0x64804083 = .ok (.iroAddSub true false true 4 2 3) ∧
    decodeWord 0x7C804083 =
      .ok (.sef ⟨false, 4⟩ ⟨⟨false, 2⟩, false⟩ ⟨⟨false, 3⟩, false⟩) ∧
    decodeWord 0xE1030005 = .ok (.dsf 2 5)

/-! ## The step -/

/-- 20_memory.md R75: with nothing buffered, when the bytes at P decode to an instruction, the step is
that instruction's meaning with the word in IR; with the word of P buffered, it is the meaning of
that word, and the buffer is used up. -/
def Obligations.StepRunsDecoded : Prop :=
  ∀ (s : State) (i : Instr), s.run = .running →
    (s.nib = none → s.pc.toNat < s.params.memWords →
      decode [s.mem.readByte (4 * s.pc.toNat), s.mem.readByte (4 * s.pc.toNat + 1),
        s.mem.readByte (4 * s.pc.toNat + 2), s.mem.readByte (4 * s.pc.toNat + 3)] = .ok (i, []) →
      step s = exec i { s with ir := s.mem.readWord s.pc.toNat, nib := none }) ∧
    ∀ b, s.nib = some b → b.addr = s.pc → decodeWord b.word = .ok i →
      step s = exec i { s with ir := b.word, nib := none }

/-- A stopped CPU executes nothing (60_exceptions.md R377); a word that is no instruction is refused by
its name (R379); a fetch beyond MEM_WORDS faults (20_memory.md R61). -/
def Obligations.StepStops : Prop :=
  ∀ s : State,
    (∀ c, s.run = .stopped c → step s = .next s) ∧
    (∀ w u, s.run = .running → s.fetch = .ok w → decodeWord w = .error u →
      step s = .refused (.undefinedWord u)) ∧
    (s.run = .running → (∀ b, s.nib = some b → b.addr ≠ s.pc) → s.params.memWords ≤ s.pc.toNat →
      step s = .fault (.addressOutOfRange .fetch s.pc))

/-- How a program comes to stand where the machine fetches (log 34): after `withFetchWord` the next step
runs the instruction that the decoder reads from the word. -/
def Obligations.FetchWordRuns : Prop :=
  ∀ (s : State) (nbits w : Nat) (i : Instr), s.mem.wf = true → s.pc.toNat < s.params.memWords →
    decodeTableWord nbits w = some i →
    step (s.withFetchWord nbits w) =
      exec i ((s.withFetchWord nbits w).issue (BitVec.ofNat 32 (w % 2 ^ nbits)))

/-- 20_memory.md R75, 10_state.md R37, 70_reset_and_hazards.md R402: after a memory reference instruction
at P, the word of P + 1 is buffered with its old content exactly when the machine continues at P + 1
and the instruction wrote that word; then the next fetch answers the old word. The scope is the
spec's decision D9 (log 21). -/
def Obligations.NextInstructionBuffer : Prop :=
  ∀ (i : Instr) (m : MemRef) (s t : State) (ea : Word),
    memRef i = some m → s.effAddr m = .ok ea → s.nib = none → exec i s = .next t →
    (t.pc = s.pc + 1 ∧ s.pc + 1 ∈ writtenWords i ea →
      t.nib = some ⟨s.pc + 1, s.mem.readWord (s.pc + 1).toNat⟩ ∧
        t.fetch = .ok (s.mem.readWord (s.pc + 1).toNat)) ∧
    (¬(t.pc = s.pc + 1 ∧ s.pc + 1 ∈ writtenWords i ea) → t.nib = none)

/-! ## The effective address -/

/-- 40_memory_reference.md R130, R131, R132, R134: Ea is base plus index plus displacement mod 2^32; with
I = 1 it is the end of a chain of 1 to 16 indirect address words. The modulus and the refused cases
are the spec's decisions D2, D10 and D14 (log 17, log 18, log 24). -/
def Obligations.EffAddrMeaning : Prop :=
  ∀ (s : State) (m : MemRef) (ea : Word), s.effAddr m = .ok ea ↔
    s.isTainted m.b = false ∧ s.isTainted m.x = false ∧
      let start := s.reg (lowReg m.b) + s.reg (lowReg m.x) + m.d.setWidth 32
      if m.i then ∃ n, 1 ≤ n ∧ n ≤ 16 ∧ IndirectChain s n start ea else ea = start

/-- Where an address calculation stops, at the instruction word and at every level: a tainted base or
index (R134), an indirect address word outside memory (20_memory.md R61) or with bits 22-20 non-zero
(R131), and a chain that goes on after 16 levels, as one that leads back to itself does (R132). The
treatments are the spec's decisions (log 6, log 17, log 18). -/
def Obligations.EffAddrStops : Prop :=
  ∀ (s : State) (m : MemRef),
    (s.isTainted m.b = true → s.effAddr m = .error (.refusal (.taintedAddress m.b))) ∧
    (s.isTainted m.b = false → s.isTainted m.x = true →
      s.effAddr m = .error (.refusal (.taintedAddress m.x))) ∧
    (s.isTainted m.b = false → s.isTainted m.x = false → m.i = true → ∀ (n : Nat) (a : Word),
      IndirectReach s n (s.reg (lowReg m.b) + s.reg (lowReg m.x) + m.d.setWidth 32) a →
      let w := s.mem.readWord a.toNat
      let base := w.extractLsb' 23 4
      let index := w.extractLsb' 27 4
      (16 ≤ n → s.effAddr m = .error (.refusal .indirectTooDeep)) ∧
      (n < 16 → s.params.memWords ≤ a.toNat →
        s.effAddr m = .error (.fault (.addressOutOfRange .indirect a))) ∧
      (n < 16 → a.toNat < s.params.memWords →
        (w.extractLsb' 20 3 ≠ 0 → s.effAddr m = .error (.refusal .indirectWordForm)) ∧
        (w.extractLsb' 20 3 = 0 → s.isTainted base = true →
          s.effAddr m = .error (.refusal (.taintedAddress base))) ∧
        (w.extractLsb' 20 3 = 0 → s.isTainted base = false → s.isTainted index = true →
          s.effAddr m = .error (.refusal (.taintedAddress index))) ∧
        (w.extractLsb' 20 3 = 0 → s.isTainted base = false → s.isTainted index = false →
          w.getLsbD 31 = true →
          s.reg (lowReg base) + s.reg (lowReg index) + (w.extractLsb' 0 20).setWidth 32 = a →
          s.effAddr m = .error (.refusal .indirectTooDeep))))

/-- 60_exceptions.md R375 item 1: what stops the address calculation stops the instruction, before it
changes any state. -/
def Obligations.AddressStopsFirst : Prop :=
  ∀ (i : Instr) (m : MemRef) (s : State) (h : Halt), memRef i = some m → s.effAddr m = .error h →
    exec i s = deliver (.error h)

/-- 20_memory.md R61: an operand beyond MEM_WORDS faults with its address, for the first word of every
memory operand and for the second of a double word (log 6). -/
def Obligations.OperandOutside : Prop :=
  ∀ (i : Instr) (m : MemRef) (s : State) (ea : Word) (k : Access),
    memRef i = some m → operandAccess i = some k → s.effAddr m = .ok ea →
    (s.params.memWords ≤ ea.toNat → exec i s = .fault (.addressOutOfRange k ea)) ∧
    (doubleOperand i = true → ea.toNat < s.params.memWords → s.params.memWords ≤ (ea + 1).toNat →
      exec i s = .fault (.addressOutOfRange k (ea + 1)))

/-- Ordinary data always gives a next state: an inter-register or argument instruction answers one in
every state, and a memory reference instruction does whenever its address calculation succeeds and its
operand lies in memory. The next state is a stopped one after STOP and after an integer overflow under
int_overflow_action = monitor_call (log 26). That the integer and floating divisions complete on a zero
divisor, and the integer ones on -2^31 / -1, is the model's choice, where 60_exceptions.md R375 item 2
refuses (log 7, log 8). -/
def Obligations.OrdinaryDataCompletes : Prop :=
  (∀ (i : Instr) (s : State), registerOnly i = true →
    ∃ t, exec i s = .next t ∧ ∀ a, t.mem.readByte a = s.mem.readByte a) ∧
  ∀ (i : Instr) (m : MemRef) (s : State) (ea : Word), memRef i = some m → s.effAddr m = .ok ea →
    (operandAccess i ≠ none → ea.toNat < s.params.memWords) →
    (doubleOperand i = true → (ea + 1).toNat < s.params.memWords) →
    ∃ t, exec i s = .next t

/-! ## Control transfer by memory reference instructions -/

/-- RTJ (40_memory_reference.md R138). The discarded link for R = 0, the cleared taint and the discarded
buffer are the spec's decisions D1, D10, D9 (log 22, 17, 21). -/
def Obligations.RtjResult : Prop :=
  ∀ (s : State) (r : Reg) (m : MemRef) (ea : Word), s.effAddr m = .ok ea →
    decodeWord (encodeMR 1 r m) = .ok (.rtj r m) ∧
    ∃ t, exec (.rtj r m) s = .next t ∧ Wrote t r (s.pc + 1) false ∧ t.pc = ea ∧ t.nib = none ∧
      Unchanged s t [r] []

/-- JRP, JRN, JRZ, JRF (40_memory_reference.md R145 to R148). That a jump taken discards the buffered word
is 20_memory.md R75 as the spec's decision D9 reads it (log 21). -/
def Obligations.JumpResult : Prop :=
  ∀ (s : State) (r : Reg) (m : MemRef) (ea : Word), s.effAddr m = .ok ea →
    ∀ (i : Instr) (fc : BitVec 5) (c : Prop),
      (i, fc, c) ∈ [
        (.jrp r m, 8, (s.reg r).getLsbD 31 = false), (.jrn r m, 9, (s.reg r).getLsbD 31 = true),
        (.jrz r m, 10, s.reg r = 0), (.jrf r m, 11, s.reg r ≠ 0)] →
      decodeWord (encodeMR fc r m) = .ok i ∧
      ∃ t, exec i s = .next t ∧ JumpsIf s t c ea ∧ Unchanged s t [] []

/-- JPM, JNM, JZM, JFM (40_memory_reference.md R149 to R152): the address uses the register's old value.
What the test sees when R is 0 is the parameter r0_dest_test (log 22), and the monitor call on overflow
is the spec's decision D15 (log 26). -/
def Obligations.ModifyJumpResult : Prop :=
  ∀ (s : State) (r : BitVec 4) (m : MemRef) (ea : Word), s.effAddr m = .ok ea →
    let v := s.reg (lowReg r) + s.reg (modReg r)
    let tested := if r = 0 ∧ s.params.r0DestTest = .reread then 0 else v
    ∀ (i : Instr) (c : Prop),
      (i, c) ∈ [
        (.jpm r m, 0 ≤ tested.toInt), (.jnm r m, tested.toInt < 0),
        (.jzm r m, tested = 0), (.jfm r m, tested ≠ 0)] →
      ∃ t, exec i s = .next t ∧ Wrote t (lowReg r) v false ∧ JumpsIf s t c ea ∧
        Unchanged s t [lowReg r] [.run] ∧
        MonitorOn s t (OutOfRange ((s.reg (lowReg r)).toInt + (s.reg (modReg r)).toInt))

/-! ## Integers in memory -/

/-- CRG, CRL, CRE, CRD (40_memory_reference.md R141 to R144). That the comparison is exact, on the signed
values, is the spec's decision D16 (log 25). -/
def Obligations.CompareResult : Prop :=
  ∀ (s : State) (r : Reg) (m : MemRef) (ea : Word), s.effAddr m = .ok ea →
    ea.toNat < s.params.memWords →
    let x := s.reg r
    let y := s.mem.readWord ea.toNat
    ∀ (i : Instr) (fc : BitVec 5) (c : Prop),
      (i, fc, c) ∈ [
        (.crg r m, 4, y.toInt ≤ x.toInt), (.crl r m, 5, x.toInt < y.toInt),
        (.cre r m, 6, x = y), (.crd r m, 7, x ≠ y)] →
      decodeWord (encodeMR fc r m) = .ok i ∧
      ∃ t, exec i s = .next t ∧ SkipsIf s t c ∧ Unchanged s t [] []

/-- MIN (40_memory_reference.md R140): the sum is stored, and the skip is on the stored word. The monitor
call and the buffer are the spec's decisions D15 and D9 (log 21, log 26). -/
def Obligations.MinResult : Prop :=
  ∀ (s : State) (r : Reg) (m : MemRef) (ea : Word), s.mem.wf = true → s.effAddr m = .ok ea →
    ea.toNat < s.params.memWords →
    let old := s.mem.readWord ea.toNat
    let v := old + s.reg r + 1
    ∃ t, exec (.min r m) s = .next t ∧ t.mem.readWord ea.toNat = v ∧ MemoryBut s t ea 1 ∧
      (v = 0 → t.pc = s.pc + 2 ∧ t.nib = none) ∧ (v ≠ 0 → BuffersOld s t ea) ∧
      Unchanged s t [] [.memory, .run] ∧
      MonitorOn s t (OutOfRange (old.toInt + (s.reg r).toInt + 1))

/-- ADD, SUB, AND, LDR (40_memory_reference.md R153 to R156). The monitor call on overflow is the spec's
decision D15 (log 26). -/
def Obligations.LoadResult : Prop :=
  ∀ (s : State) (r : Reg) (m : MemRef) (ea : Word), s.effAddr m = .ok ea →
    ea.toNat < s.params.memWords →
    let x := s.reg r
    let y := s.mem.readWord ea.toNat
    ∀ (i : Instr) (v : Word) (overflow : Prop),
      (i, v, overflow) ∈ [
        (.add r m, x + y, OutOfRange (x.toInt + y.toInt)),
        (.sub r m, x - y, OutOfRange (x.toInt - y.toInt)),
        (.and r m, x &&& y, False), (.ldr r m, y, False)] →
      ∃ t, exec i s = .next t ∧ Wrote t r v false ∧ Continues s t ∧ Unchanged s t [r] [.run] ∧
        MonitorOn s t overflow

/-- ADM, XMR, STR (40_memory_reference.md R157, R159, R160): what is stored, and for XMR what is loaded.
The monitor call, the exchange and the buffer are the spec's decisions D15, D19, D9 (log 21, 26, 36). -/
def Obligations.StoreResult : Prop :=
  ∀ (s : State) (r : Reg) (m : MemRef) (ea : Word), s.mem.wf = true → s.effAddr m = .ok ea →
    ea.toNat < s.params.memWords →
    let x := s.reg r
    let y := s.mem.readWord ea.toNat
    (∃ t, exec (.adm r m) s = .next t ∧ t.mem.readWord ea.toNat = y + x ∧ MemoryBut s t ea 1 ∧
      BuffersOld s t ea ∧ Unchanged s t [] [.memory, .run] ∧
      MonitorOn s t (OutOfRange (y.toInt + x.toInt))) ∧
    (∃ t, exec (.xmr r m) s = .next t ∧ t.mem.readWord ea.toNat = x ∧ MemoryBut s t ea 1 ∧
      BuffersOld s t ea ∧ Wrote t r y false ∧ Unchanged s t [r] [.memory]) ∧
    (∃ t, exec (.str r m) s = .next t ∧ t.mem.readWord ea.toNat = x ∧ MemoryBut s t ea 1 ∧
      BuffersOld s t ea ∧ Unchanged s t [] [.memory])

/-- MPY (40_memory_reference.md R161): OR and the register hold the exact signed product. Signedness and
the monitor call are the spec's decisions D20 and D15 (log 26, log 28). -/
def Obligations.MpyResult : Prop :=
  ∀ (s : State) (r : Reg) (m : MemRef) (ea : Word), s.effAddr m = .ok ea →
    ea.toNat < s.params.memWords →
    let product := (s.reg r).toInt * (s.mem.readWord ea.toNat).toInt
    ∃ t low, exec (.mpy r m) s = .next t ∧ Wrote t r low false ∧
      t.regOR ++ low = BitVec.ofInt 64 product ∧ Continues s t ∧ Unchanged s t [r] [.regOR, .run] ∧
      MonitorOn s t (OutOfRange product)

/-- DIV (40_memory_reference.md R162): it completes on every operand; where the divisor is not 0 and the
case is not -2^31 / -1, quotient and remainder are those of a division that truncates toward zero (the
spec's decision D21, log 9). That it completes in the two other cases, with free values, is the model's
own departure: R162, D21 and 60_exceptions.md R375 item 2 refuse them (log 7). -/
def Obligations.DivResult : Prop :=
  ∀ (s : State) (r : Reg) (m : MemRef) (ea : Word), s.effAddr m = .ok ea →
    ea.toNat < s.params.memWords →
    let n := s.reg r
    let d := s.mem.readWord ea.toNat
    let corner := n = 0x80000000 ∧ d = 0xFFFFFFFF
    ∃ t q, exec (.div r m) s = .next t ∧ Wrote t r q false ∧ Continues s t ∧
      Unchanged s t [r] [.regRR, .run] ∧ MonitorOn s t corner ∧
      (d ≠ 0 → ¬corner →
        n.toInt = q.toInt * d.toInt + t.regRR.toInt ∧ t.regRR.toInt.natAbs < d.toInt.natAbs ∧
          (t.regRR.toInt = 0 ∨ (t.regRR.toInt < 0 ↔ n.toInt < 0)))

/-- LDD and STD (40_memory_reference.md R163, R164): a copy of 64 bits, left word at Ea. That LDD clears
the taint, the order of the two writes, and the buffer are the spec's decisions (log 17, 21, 32). -/
def Obligations.DoubleMoveResult : Prop :=
  ∀ (s : State) (fd : FDesignator) (m : MemRef) (ea : Word), s.mem.wf = true →
    s.effAddr m = .ok ea → ea.toNat < s.params.memWords → (ea + 1).toNat < s.params.memWords →
    let hi := cellHigh fd.reg
    let lo := cellLow fd.reg
    (∃ t, exec (.ldd fd m) s = .next t ∧ Wrote t hi (s.mem.readWord ea.toNat) false ∧
      Wrote t lo (s.mem.readWord (ea + 1).toNat) false ∧ Continues s t ∧
      Unchanged s t [hi, lo] []) ∧
    (∃ t, exec (.std fd m) s = .next t ∧ t.mem.readWord ea.toNat = s.reg hi ∧
      t.mem.readWord (ea + 1).toNat = s.reg lo ∧ MemoryBut s t ea 2 ∧ t.pc = s.pc + 1 ∧
      (s.nib = none → t.nib = if s.pc + 1 = ea ∨ s.pc + 1 = ea + 1 then
        some ⟨s.pc + 1, s.mem.readWord (s.pc + 1).toNat⟩ else none) ∧
      Unchanged s t [] [.memory])

/-- FAD .. FDVD (40_memory_reference.md R165 to R172): the numeric function's bits go to the floating
register with taint, and its event to the sticky flags. That a division by floating zero completes, with
a free value, is the model's choice, which R335 allows (log 8). -/
def Obligations.FloatMemoryResult : Prop :=
  ∀ (s : State) (f : FReg) (m : MemRef) (ea : Word), s.effAddr m = .ok ea →
    ea.toNat < s.params.memWords →
    (∀ (i : Instr) (op : ArithOp),
      (i, op) ∈ [(.fad f m, .add), (.fsb f m, .sub), (.fmu f m, .mul), (.fdv f m, .div)] →
      let res := floatArith op .single (s.f f).toNat (s.mem.readWord ea.toNat).toNat
      ∃ t, exec i s = .next t ∧ Wrote t (cellHigh f) (BitVec.ofNat 32 res.bits) true ∧
        t.ovf = (s.ovf || res.event == .overflow) ∧ t.unf = (s.unf || res.event == .underflow) ∧
        Continues s t ∧ Unchanged s t [cellHigh f] [.flags]) ∧
    ((ea + 1).toNat < s.params.memWords → ∀ (i : Instr) (op : ArithOp),
      (i, op) ∈ [(.fadd f m, .add), (.fsbd f m, .sub), (.fmud f m, .mul), (.fdvd f m, .div)] →
      let res := floatArith op .double (s.fd f).toNat
        (s.mem.readWord ea.toNat ++ s.mem.readWord (ea + 1).toNat).toNat
      ∃ t, exec i s = .next t ∧
        Wrote t (cellHigh f) ((BitVec.ofNat 64 res.bits).extractLsb' 32 32) true ∧
        Wrote t (cellLow f) ((BitVec.ofNat 64 res.bits).extractLsb' 0 32) true ∧
        t.ovf = (s.ovf || res.event == .overflow) ∧ t.unf = (s.unf || res.event == .underflow) ∧
        Continues s t ∧ Unchanged s t [cellHigh f, cellLow f] [.flags])

/-! ## EXC -/

/-- EXC (40_memory_reference.md R139): the word at Ea, or Ea itself, executes at the address of the EXC
with that word in IR, and an inter-register or argument word completes. That P is left to the executed
word is the spec's decision D17 (log 20). -/
def Obligations.ExcRuns : Prop :=
  ∀ (s : State) (form : ExcForm) (x b : BitVec 4) (d : BitVec 12) (ea w : Word) (i : Instr),
    s.effAddr ⟨false, x, b, d⟩ = .ok ea →
    (form = .memory → ea.toNat < s.params.memWords ∧ w = s.mem.readWord ea.toNat) →
    (form = .immediate → w = ea) → decodeWord w = .ok i → isExc i = false →
    exec (.exc form x b d) s = exec i { s with ir := w } ∧
      (registerOnly i = true → ∃ t, exec (.exc form x b d) s = .next t ∧ t.ir = w ∧
        (controls i = false → t.pc = s.pc + 1))

/-- Where EXC stops (40_memory_reference.md R139): at an EXC, at a word that is no instruction, at an
address calculation that stops, and beyond MEM_WORDS. The refusals are the spec's (log 6, 19, 20). -/
def Obligations.ExcStops : Prop :=
  ∀ (s : State) (form : ExcForm) (x b : BitVec 4) (d : BitVec 12),
    (∀ h, s.effAddr ⟨false, x, b, d⟩ = .error h →
      exec (.exc form x b d) s = deliver (.error h)) ∧
    ∀ ea, s.effAddr ⟨false, x, b, d⟩ = .ok ea →
      (form = .memory → s.params.memWords ≤ ea.toNat →
        exec (.exc form x b d) s = .fault (.addressOutOfRange .read ea)) ∧
      ∀ w, (form = .memory → ea.toNat < s.params.memWords ∧ w = s.mem.readWord ea.toNat) →
        (form = .immediate → w = ea) →
        (w.extractLsb' 18 5 = 2 → exec (.exc form x b d) s = .refused .excOfExc) ∧
        ∀ u, w.extractLsb' 18 5 ≠ 2 → decodeWord w = .error u →
          exec (.exc form x b d) s = .refused (.undefinedWord u)

/-! ## The monitor call, RIO, the reserved codes -/

/-- STOP (41_inter_register.md R201): words with bits 31-18 zero are STOP; the CPU stops with the code, P
keeps its value, and nothing else changes. That other words of RFC 0 are refused is the spec's decision
D11 (30_encoding.md R101, log 19). -/
def Obligations.StopResult : Prop :=
  ∀ (s : State) (code : BitVec 18),
    decodeWord (code.setWidth 32) = .ok (.stop code) ∧
    (∀ w : Word, w.extractLsb' 18 5 = 0 → w.extractLsb' 27 5 = 0 → w.extractLsb' 23 4 ≠ 0 →
      decodeWord w = .error .stopSubcode) ∧
    ∃ t, exec (.stop code) s = .next t ∧ t.run = .stopped (.monitor code) ∧ t.pc = s.pc ∧
      t.nib = s.nib ∧ Unchanged s t [] [.run]

/-- FC 21 and RFC 11 (40_memory_reference.md R158, 41_inter_register.md R242): every word of them decodes
to the reserved row and is refused. The refusal is the spec's decision D11 (log 19). -/
def Obligations.ReservedRefused : Prop :=
  (∀ w : Word, w.extractLsb' 18 5 = 21 → ∃ r m, decodeWord w = .ok (.fc21 r m)) ∧
  (∀ w : Word, w.extractLsb' 18 5 = 0 → w.getLsbD 31 = false → w.extractLsb' 27 4 = 11 →
    ∃ rsc low, decodeWord w = .ok (.rfc11 rsc low)) ∧
  (∀ r m s, exec (.fc21 r m) s = .refused .reservedFC21) ∧
  ∀ rsc low s, exec (.rfc11 rsc low) s = .refused .reservedRFC11

/-- RIN and ROUT, and RIO in both settings (41_inter_register.md R203, R204). That the field the form does
not use may hold anything is the spec's reading (30_encoding.md R102, log 23). -/
def Obligations.RegisterIOResult : Prop :=
  ∀ (s : State) (dr sra : Reg) (e : ExtReg),
    let number : BitVec 6 := match e with | .overflow => 2 | .remainder => 3
    let held := match e with | .overflow => s.regOR | .remainder => s.regRR
    decodeWord (encodeIR 1 0 dr 0 number) = .ok (.rin dr 0 e) ∧
    decodeWord (encodeIR 1 1 0 sra number) = .ok (.rout 0 sra e) ∧
    (∀ i : Instr, i ∈ [.rin dr sra e, .rio false dr sra e] →
      ∃ t, exec i s = .next t ∧ Wrote t dr held false ∧ Continues s t ∧ Unchanged s t [dr] []) ∧
    ∀ i : Instr, i ∈ [.rout dr sra e, .rio true dr sra e] →
      ∃ t, exec i s = .next t ∧
        t.regOR = (if e = .overflow then s.reg sra else s.regOR) ∧
        t.regRR = (if e = .remainder then s.reg sra else s.regRR) ∧
        Continues s t ∧ Unchanged s t [] [.regOR, .regRR]

/-! ## Shifts, bits, conversions, logic -/

/-- SHR and its mnemonics (41_inter_register.md R205 to R211): bit by bit, the right shift first, then the
left. SM = 1 as SM = 0, and the plain copy for L = R = 0, are the spec's readings (log 29). -/
def Obligations.ShiftResult : Prop :=
  ∀ (s : State) (l r : Bool) (sm : ShiftMode) (dr sra : Reg) (sc : BitVec 5)
    (i : Instr) (l' r' : Bool) (sm' : ShiftMode),
    (i, l', r', sm') ∈ [
      (.shr l r sm dr sra sc, l, r, sm), (.slr dr sra sc, true, false, .rotate),
      (.srr dr sra sc, false, true, .rotate), (.sla dr sra sc, true, false, .arithmetic),
      (.sra dr sra sc, false, true, .arithmetic), (.sll dr sra sc, true, false, .logical),
      (.srl dr sra sc, false, true, .logical)] →
    ∃ t u, exec i s = .next t ∧ ShiftedTo l' r' sm' sc.toNat (s.reg sra) u ∧ Wrote t dr u false ∧
      Continues s t ∧ Unchanged s t [dr] []

/-- SHD and its mnemonics (41_inter_register.md R212 to R218): the pair is shifted as one 64-bit quantity,
and the destination pair is tainted. The readings are the spec's decisions (log 17, 23, 29). -/
def Obligations.DoubleShiftResult : Prop :=
  ∀ (s : State) (l r : Bool) (sm : ShiftMode) (dfd srad : FDesignator) (sc : BitVec 6)
    (i : Instr) (l' r' : Bool) (sm' : ShiftMode),
    (i, l', r', sm') ∈ [
      (.shd l r sm dfd srad sc, l, r, sm), (.slrd dfd srad sc, true, false, .rotate),
      (.srrd dfd srad sc, false, true, .rotate), (.slad dfd srad sc, true, false, .arithmetic),
      (.srad dfd srad sc, false, true, .arithmetic), (.slld dfd srad sc, true, false, .logical),
      (.srld dfd srad sc, false, true, .logical)] →
    ∃ (t : State) (u : DWord), exec i s = .next t ∧
      ShiftedTo l' r' sm' sc.toNat (s.reg (cellHigh srad.reg) ++ s.reg (cellLow srad.reg)) u ∧
      Wrote t (cellHigh dfd.reg) (u.extractLsb' 32 32) true ∧
      Wrote t (cellLow dfd.reg) (u.extractLsb' 0 32) true ∧ Continues s t ∧
      Unchanged s t [cellHigh dfd.reg, cellLow dfd.reg] []

/-- BST, BCM, BCL (41_inter_register.md R219 to R221). That words with BN of 32 or more are refused is the
spec's decision D23 (log 19). -/
def Obligations.BitResult : Prop :=
  ∀ (s : State) (dr sra : Reg) (bn : BitVec 5)
    (i : Instr) (rfc rsc : BitVec 4) (f : Bool → Bool),
    (i, rfc, rsc, f) ∈ [
      (.bst dr sra bn, 4, 0b1100, fun _ => true), (.bcm dr sra bn, 4, 0b1101, fun b => !b),
      (.bcl dr sra bn, 5, 0b1100, fun _ => false)] →
    decodeWord (encodeIR rfc rsc dr sra (0#1 ++ bn)) = .ok i ∧
    decodeWord (encodeIR rfc rsc dr sra (1#1 ++ bn)) = .error .bitNumber ∧
    ∃ t u, exec i s = .next t ∧ Wrote t dr u false ∧
      (∀ k < 32, u.getLsbD k =
        if k = bn.toNat then f ((s.reg sra).getLsbD k) else (s.reg sra).getLsbD k) ∧
      Continues s t ∧ Unchanged s t [dr] []

/-- BSZ, BSO (41_inter_register.md R222, R223): copy, and skip on the bit. What is tested when DR is 0 is
the parameter r0_dest_test (log 22). -/
def Obligations.BitSkipResult : Prop :=
  ∀ (s : State) (dr sra : Reg) (bn : BitVec 5),
    let tested := if dr = 0 ∧ s.params.r0DestTest = .reread then 0 else s.reg sra
    ∀ (i : Instr) (b : Bool), (i, b) ∈ [(.bsz dr sra bn, false), (.bso dr sra bn, true)] →
      ∃ t, exec i s = .next t ∧ Wrote t dr (s.reg sra) false ∧
        SkipsIf s t (tested.getLsbD bn.toNat = b) ∧ Unchanged s t [dr] []

/-- FIX, FIR, FIXD, FIRD (41_inter_register.md R224 to R227, 43_floating_numerics.md R340 to R342): the
number truncated, or rounded to the nearest with a tie away from zero; out of range, the greatest
integer of its sign and OVF. Binary point, format and range are the spec's decisions (log 11, 12, 15). -/
def Obligations.ToIntegerResult : Prop :=
  ∀ (s : State) (dr : Reg) (f : FReg) (i : Instr) (p : Precision) (round : Bool),
    (i, p, round) ∈ [
      (.fix dr f, .single, false), (.fir dr f, .single, true),
      (.fixd dr f, .double, false), (.fird dr f, .double, true)] →
    let v := scaledValue p (match p with | .single => (s.f f).toNat | .double => (s.fd f).toNat)
    let n : Int :=
      if round then v.sign * ((2 * v.natAbs + floatScale p) / (2 * floatScale p) : Nat)
      else v.tdiv (floatScale p)
    ∃ t, exec i s = .next t ∧
      Wrote t dr (if 2 ^ 31 ≤ n then 0x7FFFFFFF else if n < -2 ^ 31 then 0x80000000
        else BitVec.ofInt 32 n) false ∧
      (OutOfRange n → t.ovf = true) ∧ (¬OutOfRange n → t.ovf = s.ovf) ∧ t.unf = s.unf ∧
      Continues s t ∧ Unchanged s t [dr] [.flags]

/-- FLO, FLOD (41_inter_register.md R228, R229, 43_floating_numerics.md R343, R344): FLOD is exact; FLO
drops the bits of the magnitude below the 23 most significant; the integer 0 gives the all-zero word.
Format, binary point and the dropped bits are the spec's decisions (log 11, 12, 15). -/
def Obligations.FromIntegerResult : Prop :=
  ∀ (s : State) (f : FReg) (sra : Reg),
    let x := (s.reg sra).toInt
    let unit := 2 ^ (x.natAbs.log2 + 1 - 23)
    (∃ t u, exec (.flo f sra) s = .next t ∧ Wrote t (cellHigh f) u false ∧
      scaledValue .single u.toNat = x.sign * (x.natAbs / unit * unit * floatScale .single : Nat) ∧
      (x = 0 → u = 0) ∧ Continues s t ∧ Unchanged s t [cellHigh f] []) ∧
    ∃ (t : State) (u : DWord), exec (.flod f sra) s = .next t ∧
      Wrote t (cellHigh f) (u.extractLsb' 32 32) false ∧
      Wrote t (cellLow f) (u.extractLsb' 0 32) false ∧
      scaledValue .double u.toNat = x * floatScale .double ∧ (x = 0 → u = 0) ∧
      Continues s t ∧ Unchanged s t [cellHigh f, cellLow f] []

/-- LRO and its mnemonics (41_inter_register.md R230 to R241). The cleared taint and the discarded write of
GR_0 are the spec's decisions D10 and D1 (log 17, log 22). -/
def Obligations.LogicResult : Prop :=
  ∀ (s : State) (ca cb : Bool) (dr sra srb : Reg),
    let a := s.reg sra
    let b := s.reg srb
    let a' := if ca then ~~~a else a
    let b' := if cb then ~~~b else b
    ∀ (i : Instr) (rsc : BitVec 4) (v : Word),
      (i, rsc, v) ∈ [
        (.lro ca cb .zero dr sra srb, BitVec.ofBool ca ++ BitVec.ofBool cb ++ 0#2, 0),
        (.lro ca cb .and dr sra srb, BitVec.ofBool ca ++ BitVec.ofBool cb ++ 1#2, a' &&& b'),
        (.lro ca cb .xor dr sra srb, BitVec.ofBool ca ++ BitVec.ofBool cb ++ 2#2, a' ^^^ b'),
        (.lro ca cb .or dr sra srb, BitVec.ofBool ca ++ BitVec.ofBool cb ++ 3#2, a' ||| b'),
        (.szr dr sra srb, 0b0000, 0), (.rnd dr sra srb, 0b0001, a &&& b),
        (.rnda dr sra srb, 0b1001, ~~~a &&& b), (.rndb dr sra srb, 0b0101, a &&& ~~~b),
        (.rxo dr sra srb, 0b0010, a ^^^ b), (.rxoa dr sra srb, 0b1010, ~~~a ^^^ b),
        (.rxob dr sra srb, 0b0110, a ^^^ ~~~b), (.ror dr sra srb, 0b0011, a ||| b),
        (.rora dr sra srb, 0b1011, ~~~a ||| b), (.rorb dr sra srb, 0b0111, a ||| ~~~b)] →
      decodeWord (encodeIR 10 rsc dr sra srb) = .ok i.canon ∧
      ∃ t, exec i s = .next t ∧ Wrote t dr v false ∧ Continues s t ∧ Unchanged s t [dr] []

/-! ## Arithmetic between registers -/

/-- IRO add and subtract, RAD, RSB (41_inter_register.md R253 to R256): the sum or difference with CB added
when ACf is set; CB is written with bit 32 of the 33-bit result when SCf is set. The reading of CB and
the monitor call are the spec's decisions D25 and D15 (log 26, log 27). -/
def Obligations.AddSubResult : Prop :=
  ∀ (s : State) (sc ac sb : Bool) (dr sra srb : Reg) (i : Instr) (sc' ac' sb' : Bool),
    (i, sc', ac', sb') ∈ [
      (.iroAddSub sc ac sb dr sra srb, sc, ac, sb), (.rad dr sra srb, false, false, false),
      (.rsb dr sra srb, false, false, true)] →
    let a := s.reg sra
    let b := s.reg srb
    let c : Int := if ac' && s.cb then 1 else 0
    let u : Int := if sb' then (a.toNat : Int) - b.toNat + c else (a.toNat : Int) + b.toNat + c
    let signed : Int := if sb' then a.toInt - b.toInt + c else a.toInt + b.toInt + c
    ∃ t, exec i s = .next t ∧ Wrote t dr (BitVec.ofInt 32 u) false ∧
      t.cb = (if sc' then (BitVec.ofInt 33 u).getLsbD 32 else s.cb) ∧
      (sc' = true → sb' = false → (t.cb = true ↔ 2 ^ 32 ≤ u)) ∧
      Continues s t ∧ Unchanged s t [dr] [.cb, .run] ∧ MonitorOn s t (OutOfRange signed)

/-- IRO multiply and divide, RMU, RDV (41_inter_register.md R253, R257, R258), on every operand, DR = 0
included: OR and RR are still written. Signedness, truncation and the monitor call are the spec's decisions
D20, D21, D15 (log 28, 9, 26). That a division by 0 and -2^31 / -1 complete, with free values, is the
model's own departure: R162, R258, D21 and 60_exceptions.md R375 item 2 refuse them (log 7). -/
def Obligations.MulDivResult : Prop :=
  ∀ (s : State) (dr sra srb : Reg),
    let n := s.reg sra
    let d := s.reg srb
    let product := n.toInt * d.toInt
    let corner := n = 0x80000000 ∧ d = 0xFFFFFFFF
    (∀ i : Instr, i ∈ [.iroMulDiv false dr sra srb, .rmu dr sra srb] →
      ∃ t low, exec i s = .next t ∧ Wrote t dr low false ∧
        t.regOR ++ low = BitVec.ofInt 64 product ∧ Continues s t ∧
        Unchanged s t [dr] [.regOR, .run] ∧ MonitorOn s t (OutOfRange product)) ∧
    ∀ i : Instr, i ∈ [.iroMulDiv true dr sra srb, .rdv dr sra srb] →
      ∃ t q, exec i s = .next t ∧ Wrote t dr q false ∧ Continues s t ∧
        Unchanged s t [dr] [.regRR, .run] ∧ MonitorOn s t corner ∧
        (d ≠ 0 → ¬corner →
          n.toInt = q.toInt * d.toInt + t.regRR.toInt ∧ t.regRR.toInt.natAbs < d.toInt.natAbs ∧
            (t.regRR.toInt = 0 ∨ (t.regRR.toInt < 0 ↔ n.toInt < 0)))

/-- FRO and its mnemonics (41_inter_register.md R259 to R267): the numeric function's bits go to the
destination with taint, its event to the sticky flags. That a division by floating zero completes, with a
free value, is the model's choice, which R335 allows (log 8). That Y-bits that do not decide are not
consulted is the spec's decision D12 (log 23). -/
def Obligations.FloatRegisterResult : Prop :=
  ∀ (s : State) (df : FReg) (sra srb : FDesignator) (i : Instr) (op : ArithOp),
    ((i, op) ∈ [
      (.fro .add .single df sra srb, .add), (.fro .sub .single df sra srb, .sub),
      (.fro .mul .single df sra srb, .mul), (.fro .div .single df sra srb, .div),
      (.raf df sra srb, .add), (.rsf df sra srb, .sub), (.rmf df sra srb, .mul),
      (.rdf df sra srb, .div)] →
      let res := floatArith op .single (s.f sra.reg).toNat (s.f srb.reg).toNat
      ∃ t, exec i s = .next t ∧ Wrote t (cellHigh df) (BitVec.ofNat 32 res.bits) true ∧
        t.ovf = (s.ovf || res.event == .overflow) ∧ t.unf = (s.unf || res.event == .underflow) ∧
        Continues s t ∧ Unchanged s t [cellHigh df] [.flags]) ∧
    ((i, op) ∈ [
      (.fro .add .double df sra srb, .add), (.fro .sub .double df sra srb, .sub),
      (.fro .mul .double df sra srb, .mul), (.fro .div .double df sra srb, .div),
      (.rafd df sra srb, .add), (.rsfd df sra srb, .sub), (.rmfd df sra srb, .mul),
      (.rdfd df sra srb, .div)] →
      let res := floatArith op .double (s.fd sra.reg).toNat (s.fd srb.reg).toNat
      ∃ t, exec i s = .next t ∧
        Wrote t (cellHigh df) ((BitVec.ofNat 64 res.bits).extractLsb' 32 32) true ∧
        Wrote t (cellLow df) ((BitVec.ofNat 64 res.bits).extractLsb' 0 32) true ∧
        t.ovf = (s.ovf || res.event == .overflow) ∧ t.unf = (s.unf || res.event == .underflow) ∧
        Continues s t ∧ Unchanged s t [cellHigh df, cellLow df] [.flags])

/-! ## Register skips -/

/-- IRS and its mnemonics (41_inter_register.md R268 to R276): the relation is on the wrapped result, also
when DR is 0. That it is on the result as stored, and the monitor call, are the spec's decisions D26 and
D15 (log 26, log 30). -/
def Obligations.IntegerSkipResult : Prop :=
  ∀ (s : State) (rl : Relation) (sb : Bool) (dr sra srb : Reg)
    (i : Instr) (rl' : Relation) (sb' : Bool),
    (i, rl', sb') ∈ [
      (.irs rl sb dr sra srb, rl, sb), (.sgr dr sra srb, .ge, true), (.asg dr sra srb, .ge, false),
      (.sle dr sra srb, .lt, true), (.asl dr sra srb, .lt, false), (.seq dr sra srb, .eq, true),
      (.ase dr sra srb, .eq, false), (.sue dr sra srb, .ne, true), (.asu dr sra srb, .ne, false)] →
    let a := s.reg sra
    let b := s.reg srb
    let v := if sb' then a - b else a + b
    let signed := if sb' then a.toInt - b.toInt else a.toInt + b.toInt
    ∃ t, exec i s = .next t ∧ Wrote t dr v false ∧ SkipsIf s t (Related rl' v.toInt 0) ∧
      Unchanged s t [dr] [.run] ∧ MonitorOn s t (OutOfRange signed)

/-- FRS and its mnemonics (41_inter_register.md R277 to R293): the result is written with taint, its event
goes to the flags, and the skip is on the delivered result's number. What is tested when the
destination number is 0 is the parameter r0_dest_test; FD_0 read back is floating zero (log 22, 30). -/
def Obligations.FloatSkipResult : Prop :=
  ∀ (s : State) (rl : Relation) (sb : Bool) (df : FReg) (sra srb : FDesignator)
    (i : Instr) (rl' : Relation) (sb' : Bool),
    ((i, rl', sb') ∈ [
      (.frs rl sb .single df sra srb, rl, sb), (.sgf df sra srb, .ge, true),
      (.asgf df sra srb, .ge, false), (.slf df sra srb, .lt, true), (.aslf df sra srb, .lt, false),
      (.sef df sra srb, .eq, true), (.asef df sra srb, .eq, false), (.suf df sra srb, .ne, true),
      (.asuf df sra srb, .ne, false)] →
      let res := addSub .single sb' (s.f sra.reg).toNat (s.f srb.reg).toNat
      let tested := if cellHigh df = 0 ∧ s.params.r0DestTest = .reread then 0
        else scaledValue .single res.bits
      ∃ t, exec i s = .next t ∧ Wrote t (cellHigh df) (BitVec.ofNat 32 res.bits) true ∧
        t.ovf = (s.ovf || res.event == .overflow) ∧ t.unf = (s.unf || res.event == .underflow) ∧
        SkipsIf s t (Related rl' tested 0) ∧ Unchanged s t [cellHigh df] [.flags]) ∧
    ((i, rl', sb') ∈ [
      (.frs rl sb .double df sra srb, rl, sb), (.sgd df sra srb, .ge, true),
      (.agfd df sra srb, .ge, false), (.sld df sra srb, .lt, true), (.alfd df sra srb, .lt, false),
      (.sed df sra srb, .eq, true), (.aefd df sra srb, .eq, false), (.sud df sra srb, .ne, true),
      (.aufd df sra srb, .ne, false)] →
      let res := addSub .double sb' (s.fd sra.reg).toNat (s.fd srb.reg).toNat
      let tested := if cellHigh df = 0 ∧ s.params.r0DestTest = .reread then 0
        else scaledValue .double res.bits
      ∃ t, exec i s = .next t ∧
        Wrote t (cellHigh df) ((BitVec.ofNat 64 res.bits).extractLsb' 32 32) true ∧
        Wrote t (cellLow df) ((BitVec.ofNat 64 res.bits).extractLsb' 0 32) true ∧
        t.ovf = (s.ovf || res.event == .overflow) ∧ t.unf = (s.unf || res.event == .underflow) ∧
        SkipsIf s t (Related rl' tested 0) ∧ Unchanged s t [cellHigh df, cellLow df] [.flags])

/-! ## Argument instructions -/

/-- DLR and its settings (42_argument.md R300 to R304, R319). The cleared taint and the discarded write of
GR_0 are the spec's decisions D10 and D1 (log 17, log 22). -/
def Obligations.DirectLogicResult : Prop :=
  ∀ (s : State) (dr : Reg) (a : BitVec 16),
    let x := s.reg dr
    let az : Word := 0#16 ++ a
    ∀ (i j : Instr) (lf : BitVec 2) (v : Word),
      (i, j, lf, v) ∈ [
        (.dlrClear dr a, .dlr .clear dr a, 0, 0), (.xora dr a, .dlr .xor dr a, 1, x ^^^ az),
        (.anda dr a, .dlr .and dr a, 2, x &&& az), (.ora dr a, .dlr .or dr a, 3, x ||| az)] →
      decodeWord (encodeAR 0 lf dr a) = .ok i ∧
      ∃ t, exec i s = .next t ∧ exec j s = .next t ∧ Wrote t dr v false ∧ Continues s t ∧
        Unchanged s t [dr] []

/-- DAR and its settings (42_argument.md R305 to R309). SETA and SECA never overflow. The monitor call is
the spec's decision D15 (log 26). -/
def Obligations.DirectArithResult : Prop :=
  ∀ (s : State) (dr : Reg) (a : BitVec 16),
    let x := s.reg dr
    let az : Word := 0#16 ++ a
    ∀ (i j : Instr) (v : Word) (overflow : Prop),
      (i, j, v, overflow) ∈ [
        (.seta dr a, .dar .set dr a, az, False), (.seca dr a, .dar .setNeg dr a, 0 - az, False),
        (.adda dr a, .dar .add dr a, x + az, OutOfRange (x.toInt + a.toNat)),
        (.adca dr a, .dar .sub dr a, x - az, OutOfRange (x.toInt - a.toNat))] →
      ∃ t, exec i s = .next t ∧ exec j s = .next t ∧ Wrote t dr v false ∧ Continues s t ∧
        Unchanged s t [dr] [.run] ∧ MonitorOn s t overflow

/-- DSK and its settings (42_argument.md R310 to R318): an exact signed comparison with A or -A, which is
the spec's decision D16 (log 25); nothing is written. -/
def Obligations.DirectSkipResult : Prop :=
  ∀ (s : State) (dr : Reg) (a : BitVec 16),
    let x := (s.reg dr).toInt
    let az : Int := a.toNat
    ∀ (i j : Instr) (afc rl : BitVec 2) (c : Prop),
      (i, j, afc, rl, c) ∈ [
        (.ddp dr a, .dsk false .ge dr a, 2, 0, az ≤ x), (.ddn dr a, .dsk false .lt dr a, 2, 1, x < az),
        (.ddz dr a, .dsk false .eq dr a, 2, 2, x = az), (.ddf dr a, .dsk false .ne dr a, 2, 3, x ≠ az),
        (.dsp dr a, .dsk true .ge dr a, 3, 0, -az ≤ x), (.dsn dr a, .dsk true .lt dr a, 3, 1, x < -az),
        (.dsz dr a, .dsk true .eq dr a, 3, 2, x = -az),
        (.dsf dr a, .dsk true .ne dr a, 3, 3, x ≠ -az)] →
      decodeWord (encodeAR afc rl dr a) = .ok i ∧
      ∃ t, exec i s = .next t ∧ exec j s = .next t ∧ SkipsIf s t c ∧ Unchanged s t [] []

/-! ## Floating numerics -/

/-- 43_floating_numerics.md R328 to R332: a sum or difference that neither overflows nor underflows is
within half a unit of its last place of the exact value; an exact zero gives zero. The formats and the
rounding points are the spec's decisions (log 11, 12, 13, 16). -/
def Obligations.FloatAddNearest : Prop :=
  ∀ (p : Precision) (sb : Bool) (a b : Nat),
    let r := addSub p sb a b
    let exact := if sb then scaledValue p a - scaledValue p b else scaledValue p a + scaledValue p b
    (r.event = .none →
      2 * (scaledValue p r.bits - exact).natAbs ≤ 2 ^ exponentField p r.bits) ∧
    (exact = 0 → r = ⟨0, .none⟩)

/-- 43_floating_numerics.md R328, R332: zero operands, the sign change of a subtrahend, and the order of the
operands of an addition. The treatment of zero is the spec's decision D29 (log 13). -/
def Obligations.FloatAddZero : Prop :=
  ∀ (p : Precision) (a b : Nat), a < 2 ^ wordBits p → b < 2 ^ wordBits p →
    fadd p a b = fadd p b a ∧
    (unpack p b = none → unpack p a ≠ none → fadd p a b = ⟨a, .none⟩ ∧ fsub p a b = ⟨a, .none⟩) ∧
    (unpack p a = none → unpack p b ≠ none →
      fadd p a b = ⟨b, .none⟩ ∧ fsub p a b = ⟨b ^^^ 2 ^ (wordBits p - 1), .none⟩) ∧
    (unpack p a = none → unpack p b = none →
      fadd p a b = ⟨0, .none⟩ ∧ fsub p a b = ⟨0, .none⟩)

/-- 43_floating_numerics.md R333, R334: a product or quotient that neither overflows nor underflows is
exact, or has bit 0 set and is within one unit of its last place of the exact value. That all bits
below count as shifted out is the spec's decision D35 (log 14). -/
def Obligations.FloatMulDivAccuracy : Prop :=
  ∀ (p : Precision) (a b : Nat), unpack p a ≠ none → unpack p b ≠ none →
    let va := scaledValue p a
    let vb := scaledValue p b
    let product := fmul p a b
    let quotient := fdiv p a b
    (product.event = .none →
      scaledValue p product.bits * floatScale p = va * vb ∨
        (product.bits % 2 = 1 ∧ (scaledValue p product.bits * floatScale p - va * vb).natAbs <
          2 ^ exponentField p product.bits * floatScale p)) ∧
    (quotient.event = .none →
      scaledValue p quotient.bits * vb = va * floatScale p ∨
        (quotient.bits % 2 = 1 ∧ (scaledValue p quotient.bits * vb - va * floatScale p).natAbs <
          2 ^ exponentField p quotient.bits * vb.natAbs))

/-- 43_floating_numerics.md R325, R336, R337: a result overflows exactly when its exponent would exceed
511, and then all its bits but the sign are one and the sign is that of the exact result; it underflows
exactly when its exponent would be less than 1, the exact result not being zero, and then it is the
all-zero word; any other result is normalised, or the all-zero word for an exact zero. The rounding
points and multiply and divide are the spec's decisions (log 10, 12, 13, 14, 16). -/
def Obligations.FloatForced : Prop :=
  ∀ (op : ArithOp) (p : Precision) (a b : Nat), (op = .div → unpack p b ≠ none) →
    let r := floatArith op p a b
    let num := exactNum op p a b
    let den := exactDen op p b
    r.bits < 2 ^ wordBits p ∧
      (r.event = .overflow ↔ overflowLimit op p * den ≤ num.natAbs) ∧
      (r.event = .underflow ↔ num ≠ 0 ∧ num.natAbs < 2 ^ mantissaBits p * den) ∧
      (r.event = .overflow →
        r.bits = if num < 0 then 2 ^ wordBits p - 1 else 2 ^ (wordBits p - 1) - 1) ∧
      (r.event = .underflow → r.bits = 0) ∧
      (r.event = .none → if num = 0 then r.bits = 0 else 1 ≤ exponentField p r.bits)

/-! ## Whole-machine rules -/

/-- 10_state.md R34, R35: OVF and UNF are sticky, whatever executes; only floating arithmetic sets them,
and a convert to integer OVF. Stickiness is the spec's decision D4 (log 37). -/
def Obligations.FlagsSticky : Prop :=
  ∀ (i : Instr) (s t : State), exec i s = .next t →
    (s.ovf = true → t.ovf = true) ∧ (s.unf = true → t.unf = true) ∧
    (isExc i = false → floating i = false →
      t.unf = s.unf ∧ (convertsToInteger i = false → t.ovf = s.ovf))

/-- 10_state.md R33: CB is written only by IRO with SCf and read only by IRO with ACf: changing it changes
nothing else that another instruction does. An EXC counts as the instruction it executes. -/
def Obligations.CarryBit : Prop :=
  ∀ (i : Instr) (s : State),
    let j := executed i s
    (∀ t, writesCB j = false → exec i s = .next t → t.cb = s.cb) ∧
    (readsCB j = false → ∀ c : Bool,
      exec i { s with cb := c } =
        match exec i s with
        | .next t => .next { t with cb := if writesCB j then t.cb else c }
        | .fault f => .fault f
        | .refused r => .refused r)

/-- Who writes what: OR and RR (10_state.md R31, R32), the taint (R38), IR (R30), and the run parameters,
which nothing writes (R41). The extent of the taint is the spec's decision D10 (log 5, log 17). -/
def Obligations.StateWriters : Prop :=
  ∀ (i : Instr) (s t : State), exec i s = .next t →
    t.params = s.params ∧
    (isExc i = false →
      t.ir = s.ir ∧ (writesOR i = false → t.regOR = s.regOR) ∧
        (writesRR i = false → t.regRR = s.regRR) ∧
        ∀ b, t.isTainted b = true → s.isTainted b = false →
          floating i = true ∨ shiftsDouble i = true)

/-- 20_memory.md R65, R62: no instruction changes a byte of memory outside the words it stores to; one
that stores nothing changes none. -/
def Obligations.WritesOnlyItsWords : Prop :=
  ∀ (i : Instr) (s t : State), isExc i = false → exec i s = .next t →
    (∀ m ea, memRef i = some m → s.effAddr m = .ok ea →
      ∀ x : Nat, (∀ a ∈ writtenWords i ea, x / 4 ≠ a.toNat) →
        t.mem.readByte x = s.mem.readByte x) ∧
    (memRef i = none → ∀ x : Nat, t.mem.readByte x = s.mem.readByte x)

/-- 60_exceptions.md R371: the run state changes only by STOP and by an integer overflow under
int_overflow_action = monitor_call, directly or through EXC (the parameter is the spec's decision D15,
log 26). -/
def Obligations.RunState : Prop :=
  ∀ (i : Instr) (s t : State), exec i s = .next t →
    t.run = s.run ∨ (∃ code, (i = .stop code ∨ isExc i = true) ∧ t.run = .stopped (.monitor code)) ∨
      ((integerArithmetic i = true ∨ isExc i = true) ∧
        s.params.overflowAction = .monitorCall ∧ t.run = .stopped (.overflow s.pc))

/-- 00_scope.md R5: every instruction but the stop, the jumps and the skips moves P by one. -/
def Obligations.NextByDefault : Prop :=
  ∀ (i : Instr) (s t : State), controls i = false → exec i s = .next t → t.pc = s.pc + 1
end

