-- ==== Sys2Proof/Laws/Decode.lean ====
section
/-! SUPPORT. The fields of an encoded word read back as they were written (30_encoding.md R91, R94,
R95), and every sub-field code reads back as itself. -/

set_option linter.unusedSimpArgs false

namespace Sys2Proof

/-! ## Slices of a concatenation -/

theorem extract_append_high {n m : Nat} (x : BitVec n) (y : BitVec m) (k w : Nat) (h : m ≤ k) :
    (x ++ y).extractLsb' k w = x.extractLsb' (k - m) w := by
  refine BitVec.eq_of_getLsbD_eq fun i hi => ?_
  simp only [BitVec.getLsbD_extractLsb', BitVec.getLsbD_append]
  rw [if_neg (by omega), show k + i - m = k - m + i by omega]

theorem extract_append_low {n m : Nat} (x : BitVec n) (y : BitVec m) (k w : Nat) (h : k + w ≤ m) :
    (x ++ y).extractLsb' k w = y.extractLsb' k w := by
  refine BitVec.eq_of_getLsbD_eq fun i hi => ?_
  simp only [BitVec.getLsbD_extractLsb', BitVec.getLsbD_append]
  rw [if_pos (by omega)]

theorem bit_append_high {n m : Nat} (x : BitVec n) (y : BitVec m) (k : Nat) (h : m ≤ k) :
    (x ++ y).getLsbD k = x.getLsbD (k - m) := by
  rw [BitVec.getLsbD_append, if_neg (by omega)]

theorem bit_append_low {n m : Nat} (x : BitVec n) (y : BitVec m) (k : Nat) (h : k < m) :
    (x ++ y).getLsbD k = y.getLsbD k := by
  rw [BitVec.getLsbD_append, if_pos h]

/-! ## Format MR -/

section MR

variable (fc : BitVec 5) (r : BitVec 6) (m : MemRef)

@[simp] theorem fieldFC_encodeMR : fieldFC (encodeMR fc r m) = fc := by
  simp (disch := omega) only [fieldFC, encodeMR, extract_append_high, extract_append_low]
  simp

@[simp] theorem fieldR_encodeMR : fieldR (encodeMR fc r m) = r := by
  simp (disch := omega) only [fieldR, encodeMR, extract_append_high, extract_append_low]
  simp

@[simp] theorem fieldMem_encodeMR : fieldMem (encodeMR fc r m) = m := by
  simp (disch := omega) only [fieldMem, encodeMR, extract_append_high, extract_append_low,
    bit_append_high]
  simp

@[simp] theorem precisionBit_encodeMR :
    (encodeMR fc r m).getLsbD 16 = r.getLsbD 4 := by
  simp (disch := omega) only [encodeMR, extract_append_high, extract_append_low,
    bit_append_high, bit_append_low]

@[simp] theorem modified_encodeMR :
    (encodeMR fc r m).extractLsb' 12 4 = r.extractLsb' 0 4 := by
  simp (disch := omega) only [encodeMR, extract_append_high, extract_append_low,
    bit_append_high, bit_append_low]

end MR

/-! ## Format IR -/

section IR

variable (rfc rsc : BitVec 4) (dr sra srb : BitVec 6) (low : BitVec 18)

@[simp] theorem fieldFC_encodeIR :
    fieldFC (encodeIR rfc rsc dr sra srb) = 0 := by
  simp (disch := omega) only [fieldFC, encodeIR, extract_append_high, extract_append_low,
    bit_append_high, bit_append_low]
  simp

@[simp] theorem fieldRFC_encodeIR :
    fieldRFC (encodeIR rfc rsc dr sra srb) = rfc := by
  simp (disch := omega) only [fieldRFC, encodeIR, extract_append_high, extract_append_low,
    bit_append_high, bit_append_low]
  simp

@[simp] theorem fieldRSC_encodeIR :
    fieldRSC (encodeIR rfc rsc dr sra srb) = rsc := by
  simp (disch := omega) only [fieldRSC, encodeIR, extract_append_high, extract_append_low,
    bit_append_high, bit_append_low]
  simp

@[simp] theorem fieldR_encodeIR :
    fieldR (encodeIR rfc rsc dr sra srb) = dr := by
  simp (disch := omega) only [fieldR, encodeIR, extract_append_high, extract_append_low,
    bit_append_high, bit_append_low]
  simp

@[simp] theorem fieldSRA_encodeIR :
    fieldSRA (encodeIR rfc rsc dr sra srb) = sra := by
  simp (disch := omega) only [fieldSRA, encodeIR, extract_append_high, extract_append_low,
    bit_append_high, bit_append_low]
  simp

@[simp] theorem fieldSRB_encodeIR :
    fieldSRB (encodeIR rfc rsc dr sra srb) = srb := by
  simp (disch := omega) only [fieldSRB, encodeIR, extract_append_high, extract_append_low,
    bit_append_high, bit_append_low]
  simp

@[simp] theorem fieldLow2_encodeIR :
    fieldLow2 (encodeIR rfc rsc dr sra srb) = rsc.extractLsb' 0 2 := by
  simp (disch := omega) only [fieldLow2, encodeIR, extract_append_high, extract_append_low,
    bit_append_high, bit_append_low]

@[simp] theorem fieldHigh2_encodeIR :
    fieldHigh2 (encodeIR rfc rsc dr sra srb) = rsc.extractLsb' 2 2 := by
  simp (disch := omega) only [fieldHigh2, encodeIR, extract_append_high, extract_append_low,
    bit_append_high, bit_append_low]

@[simp] theorem high3_encodeIR :
    (encodeIR rfc rsc dr sra srb).extractLsb' 24 3 = rsc.extractLsb' 1 3 := by
  simp (disch := omega) only [encodeIR, extract_append_high, extract_append_low,
    bit_append_high, bit_append_low]

@[simp] theorem low3_encodeIR :
    (encodeIR rfc rsc dr sra srb).extractLsb' 23 3 = rsc.extractLsb' 0 3 := by
  simp (disch := omega) only [encodeIR, extract_append_high, extract_append_low,
    bit_append_high, bit_append_low]

@[simp] theorem bit26_encodeIR :
    (encodeIR rfc rsc dr sra srb).getLsbD 26 = rsc.getLsbD 3 := by
  simp (disch := omega) only [encodeIR, extract_append_high, extract_append_low,
    bit_append_high, bit_append_low]

@[simp] theorem bit25_encodeIR :
    (encodeIR rfc rsc dr sra srb).getLsbD 25 = rsc.getLsbD 2 := by
  simp (disch := omega) only [encodeIR, extract_append_high, extract_append_low,
    bit_append_high, bit_append_low]

@[simp] theorem bit24_encodeIR :
    (encodeIR rfc rsc dr sra srb).getLsbD 24 = rsc.getLsbD 1 := by
  simp (disch := omega) only [encodeIR, extract_append_high, extract_append_low,
    bit_append_high, bit_append_low]

@[simp] theorem bit23_encodeIR :
    (encodeIR rfc rsc dr sra srb).getLsbD 23 = rsc.getLsbD 0 := by
  simp (disch := omega) only [encodeIR, extract_append_high, extract_append_low,
    bit_append_high, bit_append_low]

@[simp] theorem bit31_encodeIR :
    (encodeIR rfc rsc dr sra srb).getLsbD 31 = false := by
  simp (disch := omega) only [encodeIR, extract_append_high, extract_append_low,
    bit_append_high, bit_append_low]
  simp

@[simp] theorem bit16_encodeIR :
    (encodeIR rfc rsc dr sra srb).getLsbD 16 = dr.getLsbD 4 := by
  simp (disch := omega) only [encodeIR, extract_append_high, extract_append_low,
    bit_append_high, bit_append_low]

@[simp] theorem bit10_encodeIR :
    (encodeIR rfc rsc dr sra srb).getLsbD 10 = sra.getLsbD 4 := by
  simp (disch := omega) only [encodeIR, extract_append_high, extract_append_low,
    bit_append_high, bit_append_low]

@[simp] theorem bit5_encodeIR :
    (encodeIR rfc rsc dr sra srb).getLsbD 5 = srb.getLsbD 5 := by
  simp (disch := omega) only [encodeIR, extract_append_high, extract_append_low,
    bit_append_high, bit_append_low]

@[simp] theorem low5_encodeIR :
    (encodeIR rfc rsc dr sra srb).extractLsb' 0 5 = srb.extractLsb' 0 5 := by
  simp (disch := omega) only [encodeIR, extract_append_high, extract_append_low,
    bit_append_high, bit_append_low]

@[simp] theorem fieldFC_encodeIR18 :
    fieldFC (encodeIR18 rfc rsc low) = 0 := by
  simp (disch := omega) only [fieldFC, encodeIR18, extract_append_high, extract_append_low,
    bit_append_high, bit_append_low]
  simp

@[simp] theorem fieldRFC_encodeIR18 :
    fieldRFC (encodeIR18 rfc rsc low) = rfc := by
  simp (disch := omega) only [fieldRFC, encodeIR18, extract_append_high, extract_append_low,
    bit_append_high, bit_append_low]
  simp

@[simp] theorem fieldRSC_encodeIR18 :
    fieldRSC (encodeIR18 rfc rsc low) = rsc := by
  simp (disch := omega) only [fieldRSC, encodeIR18, extract_append_high, extract_append_low,
    bit_append_high, bit_append_low]
  simp

@[simp] theorem bit31_encodeIR18 :
    (encodeIR18 rfc rsc low).getLsbD 31 = false := by
  simp (disch := omega) only [encodeIR18, extract_append_high, extract_append_low,
    bit_append_high, bit_append_low]
  simp

@[simp] theorem low18_encodeIR18 :
    (encodeIR18 rfc rsc low).extractLsb' 0 18 = low := by
  simp (disch := omega) only [encodeIR18, extract_append_high, extract_append_low,
    bit_append_high, bit_append_low]
  simp

end IR

/-! ## Format AR -/

section AR

variable (afc asf : BitVec 2) (dr : Reg) (a : BitVec 16)

@[simp] theorem fieldFC_encodeAR :
    fieldFC (encodeAR afc asf dr a) = 0 := by
  simp (disch := omega) only [fieldFC, encodeAR, extract_append_high, extract_append_low,
    bit_append_high, bit_append_low]
  simp

@[simp] theorem fieldASF_encodeAR :
    fieldASF (encodeAR afc asf dr a) = asf := by
  simp (disch := omega) only [fieldASF, encodeAR, extract_append_high, extract_append_low,
    bit_append_high, bit_append_low]
  simp

@[simp] theorem fieldArgDR_encodeAR :
    fieldArgDR (encodeAR afc asf dr a) = dr := by
  simp (disch := omega) only [fieldArgDR, encodeAR, extract_append_high, extract_append_low,
    bit_append_high, bit_append_low]
  simp

@[simp] theorem fieldA_encodeAR :
    fieldA (encodeAR afc asf dr a) = a := by
  simp (disch := omega) only [fieldA, encodeAR, extract_append_high, extract_append_low,
    bit_append_high, bit_append_low]
  simp

@[simp] theorem bit31_encodeAR :
    (encodeAR afc asf dr a).getLsbD 31 = true := by
  simp (disch := omega) only [encodeAR, extract_append_high, extract_append_low,
    bit_append_high, bit_append_low]
  simp

@[simp] theorem bit30_encodeAR :
    (encodeAR afc asf dr a).getLsbD 30 = afc.getLsbD 1 := by
  simp (disch := omega) only [encodeAR, extract_append_high, extract_append_low,
    bit_append_high, bit_append_low]

@[simp] theorem bit29_encodeAR :
    (encodeAR afc asf dr a).getLsbD 29 = afc.getLsbD 0 := by
  simp (disch := omega) only [encodeAR, extract_append_high, extract_append_low,
    bit_append_high, bit_append_low]

end AR

/-! ## Codes -/

@[simp] theorem ShiftMode.ofBits_bits (x : ShiftMode) : ShiftMode.ofBits x.bits = x := by
  cases x <;> rfl

@[simp] theorem ShiftMode.bits_ofBits (v : BitVec 2) : (ShiftMode.ofBits v).bits = v := by
  revert v; decide

@[simp] theorem LogicOp.ofBits_bits (x : LogicOp) : LogicOp.ofBits x.bits = x := by
  cases x <;> rfl

@[simp] theorem LogicOp.bits_ofBits (v : BitVec 2) : (LogicOp.ofBits v).bits = v := by
  revert v; decide

@[simp] theorem ArithOp.ofBits_bits (x : ArithOp) : ArithOp.ofBits x.bits = x := by
  cases x <;> rfl

@[simp] theorem ArithOp.bits_ofBits (v : BitVec 2) : (ArithOp.ofBits v).bits = v := by
  revert v; decide

@[simp] theorem Relation.ofBits_bits (x : Relation) : Relation.ofBits x.bits = x := by
  cases x <;> rfl

@[simp] theorem Relation.bits_ofBits (v : BitVec 2) : (Relation.ofBits v).bits = v := by
  revert v; decide

@[simp] theorem DirectLogic.ofBits_bits (x : DirectLogic) : DirectLogic.ofBits x.bits = x := by
  cases x <;> rfl

@[simp] theorem DirectLogic.bits_ofBits (v : BitVec 2) : (DirectLogic.ofBits v).bits = v := by
  revert v; decide

@[simp] theorem DirectArith.ofBits_bits (x : DirectArith) : DirectArith.ofBits x.bits = x := by
  cases x <;> rfl

@[simp] theorem DirectArith.bits_ofBits (v : BitVec 2) : (DirectArith.ofBits v).bits = v := by
  revert v; decide

@[simp] theorem Precision.ofBit_bit (p : Precision) : Precision.ofBit p.bit = p := by
  cases p <;> rfl

@[simp] theorem Precision.bit_ofBit (y : Bool) : (Precision.ofBit y).bit = y := by
  cases y <;> rfl

@[simp] theorem FReg.ofBits_bits (f : FReg) (y : Bool) : FReg.ofBits (f.bits y) = f := by
  simp (disch := omega) only [FReg.ofBits, FReg.bits, extract_append_low, bit_append_high]
  simp

@[simp] theorem FReg.yBit_bits (f : FReg) (y : Bool) : (f.bits y).getLsbD 4 = y := by
  simp (disch := omega) only [FReg.bits, bit_append_high, bit_append_low]
  simp

@[simp] theorem FDesignator.ofBits_bits (d : FDesignator) : FDesignator.ofBits d.bits = d := by
  simp only [FDesignator.ofBits, FDesignator.bits, FReg.ofBits_bits, FReg.yBit_bits]

@[simp] theorem ExtReg.ofBits_bits (e : ExtReg) : ExtReg.ofBits e.bits = some e := by
  cases e <;> rfl

/-! ## What each encoder's word decodes to, before the mnemonic is chosen -/

theorem rscFlags_slices (hi lo : Bool) (two : BitVec 2) :
    (rscFlags hi lo two).getLsbD 3 = hi ∧ (rscFlags hi lo two).getLsbD 2 = lo ∧
      (rscFlags hi lo two).getLsbD 1 = two.getLsbD 1 ∧ (rscFlags hi lo two).getLsbD 0 = two.getLsbD 0 ∧
      (rscFlags hi lo two).extractLsb' 0 2 = two ∧
      (rscFlags hi lo two).extractLsb' 2 2 = BitVec.ofBool hi ++ BitVec.ofBool lo := by
  revert hi lo two; decide

theorem rscRelation_slices (rl : Relation) (sb : Bool) :
    (rscRelation rl sb).getLsbD 1 = false ∧ (rscRelation rl sb).getLsbD 0 = sb ∧
      (rscRelation rl sb).extractLsb' 2 2 = rl.bits := by
  cases rl <;> cases sb <;> decide

theorem append_bit_slices (b : BitVec 1) (v : BitVec 5) :
    (b ++ v).getLsbD 5 = b.getLsbD 0 ∧ (b ++ v).extractLsb' 0 5 = v := by
  revert b v; decide

theorem append_two_slices (r : BitVec 4) :
    (0#2 ++ r) < 16#6 ∧ (0#2 ++ r).extractLsb' 0 4 = r := by
  revert r; decide

theorem decodeParent_encodeRio (w : Bool) (dr sra : Reg) (e : ExtReg) :
    decodeParent (encodeRio w dr sra e) = .ok (.rio w dr sra e) := by
  have h : (0#3 ++ BitVec.ofBool w).extractLsb' 1 3 = 0#3 ∧
      (0#3 ++ BitVec.ofBool w).getLsbD 0 = w := by revert w; decide
  simp only [encodeRio, decodeParent, fieldFC_encodeIR, bit31_encodeIR, decodeInterRegister,
    fieldRFC_encodeIR, decodeRio, high3_encodeIR, bit23_encodeIR, h, fieldSRB_encodeIR,
    ExtReg.ofBits_bits, fieldR_encodeIR, fieldSRA_encodeIR, if_true, Bool.false_eq_true, if_false]
  rfl

theorem decodeParent_encodeShr (l r : Bool) (sm : ShiftMode) (dr sra : Reg) (sc : BitVec 5) :
    decodeParent (encodeShr l r sm dr sra sc) = .ok (.shr l r sm dr sra sc) := by
  have h := rscFlags_slices l r sm.bits
  have k := append_bit_slices 0#1 sc
  simp only [encodeShr, decodeParent, fieldFC_encodeIR, bit31_encodeIR, decodeInterRegister,
    fieldRFC_encodeIR, decodeShr, bit26_encodeIR, bit25_encodeIR, fieldLow2_encodeIR,
    fieldR_encodeIR, fieldSRA_encodeIR, low5_encodeIR, bit5_encodeIR, h, k,
    ShiftMode.ofBits_bits, if_true, Bool.false_eq_true, if_false, BitVec.getLsbD_zero]
  rfl

theorem decodeParent_encodeShd (l r : Bool) (sm : ShiftMode) (dfd srad : FDesignator)
    (sc : BitVec 6) :
    decodeParent (encodeShd l r sm dfd srad sc) = .ok (.shd l r sm dfd srad sc) := by
  have h := rscFlags_slices l r sm.bits
  simp only [encodeShd, decodeParent, fieldFC_encodeIR, bit31_encodeIR, decodeInterRegister,
    fieldRFC_encodeIR, bit26_encodeIR, bit25_encodeIR, fieldLow2_encodeIR, fieldR_encodeIR,
    fieldSRA_encodeIR, fieldSRB_encodeIR, h, ShiftMode.ofBits_bits, FDesignator.ofBits_bits,
    if_true, Bool.false_eq_true, if_false]
  rfl

theorem decodeBit_encodeIR (rfc rsc : BitVec 4) (dr sra : Reg) (bn : BitVec 5)
    (mk : Reg → Reg → BitVec 5 → Instr) :
    decodeBit (encodeBit rfc rsc dr sra bn) rsc mk = .ok (mk dr sra bn) := by
  have k := append_bit_slices 0#1 bn
  simp only [encodeBit, decodeBit, fieldRSC_encodeIR, bit5_encodeIR, low5_encodeIR, k,
    fieldR_encodeIR, fieldSRA_encodeIR, if_true, Bool.false_eq_true, if_false, BitVec.getLsbD_zero]

theorem decodeParent_encodeBit (dr sra : Reg) (bn : BitVec 5) :
    decodeParent (encodeBit 4 0b1100 dr sra bn) = .ok (.bst dr sra bn) ∧
      decodeParent (encodeBit 4 0b1101 dr sra bn) = .ok (.bcm dr sra bn) ∧
      decodeParent (encodeBit 5 0b1100 dr sra bn) = .ok (.bcl dr sra bn) ∧
      decodeParent (encodeBit 6 0b1100 dr sra bn) = .ok (.bsz dr sra bn) ∧
      decodeParent (encodeBit 7 0b1100 dr sra bn) = .ok (.bso dr sra bn) := by
  have f : ∀ rfc rsc, fieldFC (encodeBit rfc rsc dr sra bn) = 0 := fun _ _ => fieldFC_encodeIR ..
  have g : ∀ rfc rsc, fieldRFC (encodeBit rfc rsc dr sra bn) = rfc := fun _ _ => fieldRFC_encodeIR ..
  have b : ∀ rfc rsc, (encodeBit rfc rsc dr sra bn).getLsbD 31 = false :=
    fun _ _ => bit31_encodeIR ..
  have c : ∀ rfc rsc, (encodeBit rfc rsc dr sra bn).getLsbD 23 = rsc.getLsbD 0 :=
    fun _ _ => bit23_encodeIR ..
  simp only [decodeParent, f, b, decodeInterRegister, g, decodeSetComplement, c]
  exact ⟨decodeBit_encodeIR .., decodeBit_encodeIR .., decodeBit_encodeIR ..,
    decodeBit_encodeIR .., decodeBit_encodeIR ..⟩

theorem decodeParent_encodeFix (rd y : Bool) (dr : Reg) (f : FReg) :
    decodeParent (encodeIR 8 (BitVec.ofBool rd ++ 0#3) dr (f.bits y) 0) = .ok (match rd, y with
      | false, false => .fix dr f
      | true, false => .fir dr f
      | false, true => .fixd dr f
      | true, true => .fird dr f) := by
  have h : (BitVec.ofBool rd ++ 0#3).extractLsb' 0 3 = 0#3 ∧
      (BitVec.ofBool rd ++ 0#3).getLsbD 3 = rd := by revert rd; decide
  simp only [decodeParent, fieldFC_encodeIR, bit31_encodeIR, decodeInterRegister, fieldRFC_encodeIR,
    decodeFix, low3_encodeIR, h, fieldSRB_encodeIR, fieldR_encodeIR, fieldSRA_encodeIR,
    bit26_encodeIR, bit10_encodeIR, FReg.ofBits_bits, FReg.yBit_bits, if_true, Bool.false_eq_true,
    if_false]
  cases rd <;> cases y <;> rfl

theorem decodeParent_encodeFlo (y : Bool) (f : FReg) (sra : Reg) :
    decodeParent (encodeIR 9 0b0010 (f.bits y) sra 0) =
      .ok (if y then .flod f sra else .flo f sra) := by
  simp only [decodeParent, fieldFC_encodeIR, bit31_encodeIR, decodeInterRegister, fieldRFC_encodeIR,
    decodeFlo, fieldRSC_encodeIR, fieldSRB_encodeIR, fieldR_encodeIR, fieldSRA_encodeIR,
    bit16_encodeIR, FReg.ofBits_bits, FReg.yBit_bits, if_true, Bool.false_eq_true, if_false]
  cases y <;> rfl

theorem decodeParent_encodeLro (ca cb : Bool) (lo : LogicOp) (dr sra srb : Reg) :
    decodeParent (encodeLro ca cb lo dr sra srb) = .ok (.lro ca cb lo dr sra srb) := by
  have h := rscFlags_slices ca cb lo.bits
  simp only [encodeLro, decodeParent, fieldFC_encodeIR, bit31_encodeIR, decodeInterRegister,
    fieldRFC_encodeIR, bit26_encodeIR, bit25_encodeIR, fieldLow2_encodeIR, fieldR_encodeIR,
    fieldSRA_encodeIR, fieldSRB_encodeIR, h, LogicOp.ofBits_bits, if_true, Bool.false_eq_true,
    if_false]
  rfl

theorem decodeParent_encodeStop (code : BitVec 18) :
    decodeParent (encodeIR18 0 0 code) = .ok (.stop code) := by
  simp only [decodeParent, fieldFC_encodeIR18, bit31_encodeIR18, decodeInterRegister,
    fieldRFC_encodeIR18, fieldRSC_encodeIR18, low18_encodeIR18, if_true, Bool.false_eq_true,
    if_false]
  rfl

theorem decodeParent_encodeRfc11 (rsc : BitVec 4) (low : BitVec 18) :
    decodeParent (encodeIR18 11 rsc low) = .ok (.rfc11 rsc low) := by
  simp only [decodeParent, fieldFC_encodeIR18, bit31_encodeIR18, decodeInterRegister,
    fieldRFC_encodeIR18, fieldRSC_encodeIR18, low18_encodeIR18, if_true, Bool.false_eq_true,
    if_false]
  rfl

theorem decodeParent_encodeIro_addSub (sc ac sb : Bool) (dr sra srb : Reg) :
    decodeParent (encodeIro sc ac false sb dr sra srb) = .ok (.iroAddSub sc ac sb dr sra srb) := by
  have h := rscFlags_slices sc ac (BitVec.ofBool false ++ BitVec.ofBool sb)
  have k : (BitVec.ofBool false ++ BitVec.ofBool sb).getLsbD 1 = false ∧
      (BitVec.ofBool false ++ BitVec.ofBool sb).getLsbD 0 = sb := by
    cases sb <;> decide
  simp only [encodeIro, decodeParent, fieldFC_encodeIR, bit31_encodeIR, decodeInterRegister,
    fieldRFC_encodeIR, decodeIro, bit24_encodeIR, bit26_encodeIR, bit25_encodeIR, bit23_encodeIR,
    fieldR_encodeIR, fieldSRA_encodeIR, fieldSRB_encodeIR, h, k, if_true, Bool.false_eq_true,
    if_false]
  rfl

theorem decodeParent_encodeIro_mulDiv (dv : Bool) (dr sra srb : Reg) :
    decodeParent (encodeIro false false true dv dr sra srb) = .ok (.iroMulDiv dv dr sra srb) := by
  have h := rscFlags_slices false false (BitVec.ofBool true ++ BitVec.ofBool dv)
  have k : (BitVec.ofBool true ++ BitVec.ofBool dv).getLsbD 1 = true ∧
      (BitVec.ofBool true ++ BitVec.ofBool dv).getLsbD 0 = dv := by
    cases dv <;> decide
  have z : BitVec.ofBool false ++ BitVec.ofBool false = 0#2 := rfl
  simp only [encodeIro, decodeParent, fieldFC_encodeIR, bit31_encodeIR, decodeInterRegister,
    fieldRFC_encodeIR, decodeIro, bit24_encodeIR, fieldHigh2_encodeIR, bit23_encodeIR,
    fieldR_encodeIR, fieldSRA_encodeIR, fieldSRB_encodeIR, h, k, z, if_true, Bool.false_eq_true,
    if_false]
  rfl

theorem decodeParent_encodeFro (op : ArithOp) (p : Precision) (df : FReg) (sra srb : FDesignator) :
    decodeParent (encodeFro op p df sra srb) = .ok (.fro op p df sra srb) := by
  have h := rscFlags_slices false false op.bits
  have z : BitVec.ofBool false ++ BitVec.ofBool false = 0#2 := rfl
  simp only [encodeFro, decodeParent, fieldFC_encodeIR, bit31_encodeIR, decodeInterRegister,
    fieldRFC_encodeIR, decodeFro, fieldHigh2_encodeIR, fieldLow2_encodeIR, bit16_encodeIR,
    fieldR_encodeIR, fieldSRA_encodeIR, fieldSRB_encodeIR, h, z, ArithOp.ofBits_bits,
    Precision.ofBit_bit, FReg.ofBits_bits, FReg.yBit_bits, FDesignator.ofBits_bits, if_true,
    Bool.false_eq_true, if_false]
  rfl

theorem decodeParent_encodeIrs (rl : Relation) (sb : Bool) (dr sra srb : Reg) :
    decodeParent (encodeIrs rl sb dr sra srb) = .ok (.irs rl sb dr sra srb) := by
  have h := rscRelation_slices rl sb
  simp only [encodeIrs, decodeParent, fieldFC_encodeIR, bit31_encodeIR, decodeInterRegister,
    fieldRFC_encodeIR, decodeIrs, fieldHigh2_encodeIR, bit24_encodeIR, bit23_encodeIR,
    fieldR_encodeIR, fieldSRA_encodeIR, fieldSRB_encodeIR, h, Relation.ofBits_bits, if_true,
    Bool.false_eq_true, if_false]
  rfl

theorem decodeParent_encodeFrs (rl : Relation) (sb : Bool) (p : Precision) (df : FReg)
    (sra srb : FDesignator) :
    decodeParent (encodeFrs rl sb p df sra srb) = .ok (.frs rl sb p df sra srb) := by
  have h := rscRelation_slices rl sb
  simp only [encodeFrs, decodeParent, fieldFC_encodeIR, bit31_encodeIR, decodeInterRegister,
    fieldRFC_encodeIR, decodeFrs, fieldHigh2_encodeIR, bit24_encodeIR, bit23_encodeIR,
    bit16_encodeIR, fieldR_encodeIR, fieldSRA_encodeIR, fieldSRB_encodeIR, h, Relation.ofBits_bits,
    Precision.ofBit_bit, FReg.ofBits_bits, FReg.yBit_bits, FDesignator.ofBits_bits, if_true,
    Bool.false_eq_true, if_false]
  rfl

theorem decodeParent_encodeDlr (lf : DirectLogic) (dr : Reg) (a : BitVec 16) :
    decodeParent (encodeDlr lf dr a) = .ok (.dlr lf dr a) := by
  have h : (0 : BitVec 2).getLsbD 1 = false ∧ (0 : BitVec 2).getLsbD 0 = false := by decide
  simp only [encodeDlr, decodeParent, fieldFC_encodeAR, bit31_encodeAR, decodeArgument,
    bit30_encodeAR, bit29_encodeAR, h, fieldASF_encodeAR, fieldArgDR_encodeAR, fieldA_encodeAR,
    DirectLogic.ofBits_bits, if_true, Bool.false_eq_true, if_false]
  rfl

theorem decodeParent_encodeDar (af : DirectArith) (dr : Reg) (a : BitVec 16) :
    decodeParent (encodeDar af dr a) = .ok (.dar af dr a) := by
  have h : (1 : BitVec 2).getLsbD 1 = false ∧ (1 : BitVec 2).getLsbD 0 = true := by decide
  simp only [encodeDar, decodeParent, fieldFC_encodeAR, bit31_encodeAR, decodeArgument,
    bit30_encodeAR, bit29_encodeAR, h, fieldASF_encodeAR, fieldArgDR_encodeAR, fieldA_encodeAR,
    DirectArith.ofBits_bits, if_true, Bool.false_eq_true, if_false]
  rfl

theorem decodeParent_encodeDsk (cm : Bool) (rl : Relation) (dr : Reg) (a : BitVec 16) :
    decodeParent (encodeDsk cm rl dr a) = .ok (.dsk cm rl dr a) := by
  have h : (1#1 ++ BitVec.ofBool cm).getLsbD 1 = true ∧
      (1#1 ++ BitVec.ofBool cm).getLsbD 0 = cm := by revert cm; decide
  simp only [encodeDsk, decodeParent, fieldFC_encodeAR, bit31_encodeAR, decodeArgument,
    bit30_encodeAR, h, fieldASF_encodeAR, fieldArgDR_encodeAR, fieldA_encodeAR, bit29_encodeAR,
    Relation.ofBits_bits, if_true, Bool.false_eq_true, if_false]
  rfl

/-- A memory reference word reaches the memory reference decoder. -/
theorem decodeParent_encodeMR (fc : BitVec 5) (r : BitVec 6) (m : MemRef) (h : fc ≠ 0#5) :
    decodeParent (encodeMR fc r m) = decodeMemory (encodeMR fc r m) := by
  rw [decodeParent, fieldFC_encodeMR, if_neg h]

theorem decodeModify_encodeMR (fc : BitVec 5) (r : BitVec 4) (m : MemRef)
    (mk : BitVec 4 → MemRef → Instr) :
    decodeModify (encodeMR fc (0#2 ++ r) m) mk = .ok (mk r m) := by
  have h := append_two_slices r
  simp only [decodeModify, fieldR_encodeMR, modified_encodeMR, fieldMem_encodeMR, h, if_true]

theorem decodeFloat_encodeMR (fc : BitVec 5) (f : FReg) (y : Bool) (m : MemRef)
    (single double : FReg → MemRef → Instr) :
    decodeFloat (encodeMR fc (f.bits y) m) single double = if y then double f m else single f m := by
  simp only [decodeFloat, precisionBit_encodeMR, fieldR_encodeMR, fieldMem_encodeMR,
    FReg.ofBits_bits, FReg.yBit_bits]

theorem decodeExc_encodeMR (fc : BitVec 5) (form : ExcForm) (x b : BitVec 4) (d : BitVec 12) :
    decodeExc (encodeMR fc form.bits ⟨false, x, b, d⟩) = .ok (.exc form x b d) := by
  cases form <;>
    simp only [decodeExc, fieldR_encodeMR, fieldMem_encodeMR, ExcForm.bits, Bool.false_eq_true,
      if_false] <;>
    rfl

end Sys2Proof
end

