-- ==== Sys2Proof/Laws/State.lean ====
section
/-! SUPPORT. The small lemmas of the state: one per field per update, and what a general register and a
taint bit read as after each update. -/

namespace Sys2Proof.Machine

/-! ## Fields -/

/-! ### `next` -/

@[simp] theorem next_regs (s : State) : s.next.regs = s.regs := rfl

@[simp] theorem next_taint (s : State) : s.next.taint = s.taint := rfl

@[simp] theorem next_pc (s : State) : s.next.pc = s.pc + 1 := rfl

@[simp] theorem next_ir (s : State) : s.next.ir = s.ir := rfl

@[simp] theorem next_regOR (s : State) : s.next.regOR = s.regOR := rfl

@[simp] theorem next_regRR (s : State) : s.next.regRR = s.regRR := rfl

@[simp] theorem next_cb (s : State) : s.next.cb = s.cb := rfl

@[simp] theorem next_ovf (s : State) : s.next.ovf = s.ovf := rfl

@[simp] theorem next_unf (s : State) : s.next.unf = s.unf := rfl

@[simp] theorem next_run (s : State) : s.next.run = s.run := rfl

@[simp] theorem next_nib (s : State) : s.next.nib = s.nib := rfl

@[simp] theorem next_mem (s : State) : s.next.mem = s.mem := rfl

@[simp] theorem next_params (s : State) : s.next.params = s.params := rfl

/-! ### `skip` -/

@[simp] theorem skip_regs (s : State) : s.skip.regs = s.regs := rfl

@[simp] theorem skip_taint (s : State) : s.skip.taint = s.taint := rfl

@[simp] theorem skip_pc (s : State) : s.skip.pc = s.pc + 2 := rfl

@[simp] theorem skip_ir (s : State) : s.skip.ir = s.ir := rfl

@[simp] theorem skip_regOR (s : State) : s.skip.regOR = s.regOR := rfl

@[simp] theorem skip_regRR (s : State) : s.skip.regRR = s.regRR := rfl

@[simp] theorem skip_cb (s : State) : s.skip.cb = s.cb := rfl

@[simp] theorem skip_ovf (s : State) : s.skip.ovf = s.ovf := rfl

@[simp] theorem skip_unf (s : State) : s.skip.unf = s.unf := rfl

@[simp] theorem skip_run (s : State) : s.skip.run = s.run := rfl

@[simp] theorem skip_nib (s : State) : s.skip.nib = none := rfl

@[simp] theorem skip_mem (s : State) : s.skip.mem = s.mem := rfl

@[simp] theorem skip_params (s : State) : s.skip.params = s.params := rfl

/-! ### `jump` -/

@[simp] theorem jump_regs (s : State) (a : Word) : (s.jump a).regs = s.regs := rfl

@[simp] theorem jump_taint (s : State) (a : Word) : (s.jump a).taint = s.taint := rfl

@[simp] theorem jump_pc (s : State) (a : Word) : (s.jump a).pc = a := rfl

@[simp] theorem jump_ir (s : State) (a : Word) : (s.jump a).ir = s.ir := rfl

@[simp] theorem jump_regOR (s : State) (a : Word) : (s.jump a).regOR = s.regOR := rfl

@[simp] theorem jump_regRR (s : State) (a : Word) : (s.jump a).regRR = s.regRR := rfl

@[simp] theorem jump_cb (s : State) (a : Word) : (s.jump a).cb = s.cb := rfl

@[simp] theorem jump_ovf (s : State) (a : Word) : (s.jump a).ovf = s.ovf := rfl

@[simp] theorem jump_unf (s : State) (a : Word) : (s.jump a).unf = s.unf := rfl

@[simp] theorem jump_run (s : State) (a : Word) : (s.jump a).run = s.run := rfl

@[simp] theorem jump_nib (s : State) (a : Word) : (s.jump a).nib = none := rfl

@[simp] theorem jump_mem (s : State) (a : Word) : (s.jump a).mem = s.mem := rfl

@[simp] theorem jump_params (s : State) (a : Word) : (s.jump a).params = s.params := rfl

/-! ### `monitorCall` -/

@[simp] theorem monitorCall_regs (s : State) (c : StopCause) : (s.monitorCall c).regs = s.regs := rfl

@[simp] theorem monitorCall_taint (s : State) (c : StopCause) : (s.monitorCall c).taint = s.taint := rfl

@[simp] theorem monitorCall_pc (s : State) (c : StopCause) : (s.monitorCall c).pc = s.pc := rfl

@[simp] theorem monitorCall_ir (s : State) (c : StopCause) : (s.monitorCall c).ir = s.ir := rfl

@[simp] theorem monitorCall_regOR (s : State) (c : StopCause) : (s.monitorCall c).regOR = s.regOR := rfl

@[simp] theorem monitorCall_regRR (s : State) (c : StopCause) : (s.monitorCall c).regRR = s.regRR := rfl

@[simp] theorem monitorCall_cb (s : State) (c : StopCause) : (s.monitorCall c).cb = s.cb := rfl

@[simp] theorem monitorCall_ovf (s : State) (c : StopCause) : (s.monitorCall c).ovf = s.ovf := rfl

@[simp] theorem monitorCall_unf (s : State) (c : StopCause) : (s.monitorCall c).unf = s.unf := rfl

@[simp] theorem monitorCall_run (s : State) (c : StopCause) : (s.monitorCall c).run = .stopped c := rfl

@[simp] theorem monitorCall_nib (s : State) (c : StopCause) : (s.monitorCall c).nib = s.nib := rfl

@[simp] theorem monitorCall_mem (s : State) (c : StopCause) : (s.monitorCall c).mem = s.mem := rfl

@[simp] theorem monitorCall_params (s : State) (c : StopCause) : (s.monitorCall c).params = s.params := rfl

/-! ### `issue` -/

@[simp] theorem issue_regs (s : State) (w : Word) : (s.issue w).regs = s.regs := rfl

@[simp] theorem issue_taint (s : State) (w : Word) : (s.issue w).taint = s.taint := rfl

@[simp] theorem issue_pc (s : State) (w : Word) : (s.issue w).pc = s.pc := rfl

@[simp] theorem issue_ir (s : State) (w : Word) : (s.issue w).ir = w := rfl

@[simp] theorem issue_regOR (s : State) (w : Word) : (s.issue w).regOR = s.regOR := rfl

@[simp] theorem issue_regRR (s : State) (w : Word) : (s.issue w).regRR = s.regRR := rfl

@[simp] theorem issue_cb (s : State) (w : Word) : (s.issue w).cb = s.cb := rfl

@[simp] theorem issue_ovf (s : State) (w : Word) : (s.issue w).ovf = s.ovf := rfl

@[simp] theorem issue_unf (s : State) (w : Word) : (s.issue w).unf = s.unf := rfl

@[simp] theorem issue_run (s : State) (w : Word) : (s.issue w).run = s.run := rfl

@[simp] theorem issue_nib (s : State) (w : Word) : (s.issue w).nib = none := rfl

@[simp] theorem issue_mem (s : State) (w : Word) : (s.issue w).mem = s.mem := rfl

@[simp] theorem issue_params (s : State) (w : Word) : (s.issue w).params = s.params := rfl

/-! ### `writeReg`, `setReg`, `setTaintedReg` -/

@[simp] theorem writeReg_pc (s : State) (r : Reg) (v : Word) (x : Bool) : (s.writeReg r v x).pc = s.pc := by
  unfold State.writeReg; split <;> rfl

@[simp] theorem writeReg_ir (s : State) (r : Reg) (v : Word) (x : Bool) : (s.writeReg r v x).ir = s.ir := by
  unfold State.writeReg; split <;> rfl

@[simp] theorem writeReg_regOR (s : State) (r : Reg) (v : Word) (x : Bool) : (s.writeReg r v x).regOR = s.regOR := by
  unfold State.writeReg; split <;> rfl

@[simp] theorem writeReg_regRR (s : State) (r : Reg) (v : Word) (x : Bool) : (s.writeReg r v x).regRR = s.regRR := by
  unfold State.writeReg; split <;> rfl

@[simp] theorem writeReg_cb (s : State) (r : Reg) (v : Word) (x : Bool) : (s.writeReg r v x).cb = s.cb := by
  unfold State.writeReg; split <;> rfl

@[simp] theorem writeReg_ovf (s : State) (r : Reg) (v : Word) (x : Bool) : (s.writeReg r v x).ovf = s.ovf := by
  unfold State.writeReg; split <;> rfl

@[simp] theorem writeReg_unf (s : State) (r : Reg) (v : Word) (x : Bool) : (s.writeReg r v x).unf = s.unf := by
  unfold State.writeReg; split <;> rfl

@[simp] theorem writeReg_run (s : State) (r : Reg) (v : Word) (x : Bool) : (s.writeReg r v x).run = s.run := by
  unfold State.writeReg; split <;> rfl

@[simp] theorem writeReg_nib (s : State) (r : Reg) (v : Word) (x : Bool) : (s.writeReg r v x).nib = s.nib := by
  unfold State.writeReg; split <;> rfl

@[simp] theorem writeReg_mem (s : State) (r : Reg) (v : Word) (x : Bool) : (s.writeReg r v x).mem = s.mem := by
  unfold State.writeReg; split <;> rfl

@[simp] theorem writeReg_params (s : State) (r : Reg) (v : Word) (x : Bool) : (s.writeReg r v x).params = s.params := by
  unfold State.writeReg; split <;> rfl

@[simp] theorem setReg_pc (s : State) (r : Reg) (v : Word) : (s.setReg r v).pc = s.pc := by
  exact writeReg_pc ..

@[simp] theorem setReg_ir (s : State) (r : Reg) (v : Word) : (s.setReg r v).ir = s.ir := by
  exact writeReg_ir ..

@[simp] theorem setReg_regOR (s : State) (r : Reg) (v : Word) : (s.setReg r v).regOR = s.regOR := by
  exact writeReg_regOR ..

@[simp] theorem setReg_regRR (s : State) (r : Reg) (v : Word) : (s.setReg r v).regRR = s.regRR := by
  exact writeReg_regRR ..

@[simp] theorem setReg_cb (s : State) (r : Reg) (v : Word) : (s.setReg r v).cb = s.cb := by
  exact writeReg_cb ..

@[simp] theorem setReg_ovf (s : State) (r : Reg) (v : Word) : (s.setReg r v).ovf = s.ovf := by
  exact writeReg_ovf ..

@[simp] theorem setReg_unf (s : State) (r : Reg) (v : Word) : (s.setReg r v).unf = s.unf := by
  exact writeReg_unf ..

@[simp] theorem setReg_run (s : State) (r : Reg) (v : Word) : (s.setReg r v).run = s.run := by
  exact writeReg_run ..

@[simp] theorem setReg_nib (s : State) (r : Reg) (v : Word) : (s.setReg r v).nib = s.nib := by
  exact writeReg_nib ..

@[simp] theorem setReg_mem (s : State) (r : Reg) (v : Word) : (s.setReg r v).mem = s.mem := by
  exact writeReg_mem ..

@[simp] theorem setReg_params (s : State) (r : Reg) (v : Word) : (s.setReg r v).params = s.params := by
  exact writeReg_params ..

@[simp] theorem setTaintedReg_pc (s : State) (r : Reg) (v : Word) : (s.setTaintedReg r v).pc = s.pc := by
  exact writeReg_pc ..

@[simp] theorem setTaintedReg_ir (s : State) (r : Reg) (v : Word) : (s.setTaintedReg r v).ir = s.ir := by
  exact writeReg_ir ..

@[simp] theorem setTaintedReg_regOR (s : State) (r : Reg) (v : Word) : (s.setTaintedReg r v).regOR = s.regOR := by
  exact writeReg_regOR ..

@[simp] theorem setTaintedReg_regRR (s : State) (r : Reg) (v : Word) : (s.setTaintedReg r v).regRR = s.regRR := by
  exact writeReg_regRR ..

@[simp] theorem setTaintedReg_cb (s : State) (r : Reg) (v : Word) : (s.setTaintedReg r v).cb = s.cb := by
  exact writeReg_cb ..

@[simp] theorem setTaintedReg_ovf (s : State) (r : Reg) (v : Word) : (s.setTaintedReg r v).ovf = s.ovf := by
  exact writeReg_ovf ..

@[simp] theorem setTaintedReg_unf (s : State) (r : Reg) (v : Word) : (s.setTaintedReg r v).unf = s.unf := by
  exact writeReg_unf ..

@[simp] theorem setTaintedReg_run (s : State) (r : Reg) (v : Word) : (s.setTaintedReg r v).run = s.run := by
  exact writeReg_run ..

@[simp] theorem setTaintedReg_nib (s : State) (r : Reg) (v : Word) : (s.setTaintedReg r v).nib = s.nib := by
  exact writeReg_nib ..

@[simp] theorem setTaintedReg_mem (s : State) (r : Reg) (v : Word) : (s.setTaintedReg r v).mem = s.mem := by
  exact writeReg_mem ..

@[simp] theorem setTaintedReg_params (s : State) (r : Reg) (v : Word) : (s.setTaintedReg r v).params = s.params := by
  exact writeReg_params ..

/-! ### `skipIf`, `jumpIf` -/

@[simp] theorem skipIf_regs (s : State) (c : Bool) : (s.skipIf c).regs = s.regs := by
  cases c <;> rfl

@[simp] theorem skipIf_taint (s : State) (c : Bool) : (s.skipIf c).taint = s.taint := by
  cases c <;> rfl

@[simp] theorem skipIf_pc (s : State) (c : Bool) : (s.skipIf c).pc = if c then s.pc + 2 else s.pc + 1 := by
  cases c <;> rfl

@[simp] theorem skipIf_ir (s : State) (c : Bool) : (s.skipIf c).ir = s.ir := by
  cases c <;> rfl

@[simp] theorem skipIf_regOR (s : State) (c : Bool) : (s.skipIf c).regOR = s.regOR := by
  cases c <;> rfl

@[simp] theorem skipIf_regRR (s : State) (c : Bool) : (s.skipIf c).regRR = s.regRR := by
  cases c <;> rfl

@[simp] theorem skipIf_cb (s : State) (c : Bool) : (s.skipIf c).cb = s.cb := by
  cases c <;> rfl

@[simp] theorem skipIf_ovf (s : State) (c : Bool) : (s.skipIf c).ovf = s.ovf := by
  cases c <;> rfl

@[simp] theorem skipIf_unf (s : State) (c : Bool) : (s.skipIf c).unf = s.unf := by
  cases c <;> rfl

@[simp] theorem skipIf_run (s : State) (c : Bool) : (s.skipIf c).run = s.run := by
  cases c <;> rfl

@[simp] theorem skipIf_nib (s : State) (c : Bool) : (s.skipIf c).nib = if c then none else s.nib := by
  cases c <;> rfl

@[simp] theorem skipIf_mem (s : State) (c : Bool) : (s.skipIf c).mem = s.mem := by
  cases c <;> rfl

@[simp] theorem skipIf_params (s : State) (c : Bool) : (s.skipIf c).params = s.params := by
  cases c <;> rfl

@[simp] theorem jumpIf_regs (s : State) (c : Bool) (a : Word) : (s.jumpIf c a).regs = s.regs := by
  cases c <;> rfl

@[simp] theorem jumpIf_taint (s : State) (c : Bool) (a : Word) : (s.jumpIf c a).taint = s.taint := by
  cases c <;> rfl

@[simp] theorem jumpIf_pc (s : State) (c : Bool) (a : Word) : (s.jumpIf c a).pc = if c then a else s.pc + 1 := by
  cases c <;> rfl

@[simp] theorem jumpIf_ir (s : State) (c : Bool) (a : Word) : (s.jumpIf c a).ir = s.ir := by
  cases c <;> rfl

@[simp] theorem jumpIf_regOR (s : State) (c : Bool) (a : Word) : (s.jumpIf c a).regOR = s.regOR := by
  cases c <;> rfl

@[simp] theorem jumpIf_regRR (s : State) (c : Bool) (a : Word) : (s.jumpIf c a).regRR = s.regRR := by
  cases c <;> rfl

@[simp] theorem jumpIf_cb (s : State) (c : Bool) (a : Word) : (s.jumpIf c a).cb = s.cb := by
  cases c <;> rfl

@[simp] theorem jumpIf_ovf (s : State) (c : Bool) (a : Word) : (s.jumpIf c a).ovf = s.ovf := by
  cases c <;> rfl

@[simp] theorem jumpIf_unf (s : State) (c : Bool) (a : Word) : (s.jumpIf c a).unf = s.unf := by
  cases c <;> rfl

@[simp] theorem jumpIf_run (s : State) (c : Bool) (a : Word) : (s.jumpIf c a).run = s.run := by
  cases c <;> rfl

@[simp] theorem jumpIf_nib (s : State) (c : Bool) (a : Word) : (s.jumpIf c a).nib = if c then none else s.nib := by
  cases c <;> rfl

@[simp] theorem jumpIf_mem (s : State) (c : Bool) (a : Word) : (s.jumpIf c a).mem = s.mem := by
  cases c <;> rfl

@[simp] theorem jumpIf_params (s : State) (c : Bool) (a : Word) : (s.jumpIf c a).params = s.params := by
  cases c <;> rfl

/-! ### `note` -/

@[simp] theorem note_regs (s : State) (e : FloatEvent) : (s.note e).regs = s.regs := by
  cases e <;> rfl

@[simp] theorem note_taint (s : State) (e : FloatEvent) : (s.note e).taint = s.taint := by
  cases e <;> rfl

@[simp] theorem note_pc (s : State) (e : FloatEvent) : (s.note e).pc = s.pc := by
  cases e <;> rfl

@[simp] theorem note_ir (s : State) (e : FloatEvent) : (s.note e).ir = s.ir := by
  cases e <;> rfl

@[simp] theorem note_regOR (s : State) (e : FloatEvent) : (s.note e).regOR = s.regOR := by
  cases e <;> rfl

@[simp] theorem note_regRR (s : State) (e : FloatEvent) : (s.note e).regRR = s.regRR := by
  cases e <;> rfl

@[simp] theorem note_cb (s : State) (e : FloatEvent) : (s.note e).cb = s.cb := by
  cases e <;> rfl

@[simp] theorem note_ovf (s : State) (e : FloatEvent) : (s.note e).ovf = (s.ovf || e == .overflow) := by
  cases e <;> simp [State.note]

@[simp] theorem note_unf (s : State) (e : FloatEvent) : (s.note e).unf = (s.unf || e == .underflow) := by
  cases e <;> simp [State.note]

@[simp] theorem note_run (s : State) (e : FloatEvent) : (s.note e).run = s.run := by
  cases e <;> rfl

@[simp] theorem note_nib (s : State) (e : FloatEvent) : (s.note e).nib = s.nib := by
  cases e <;> rfl

@[simp] theorem note_mem (s : State) (e : FloatEvent) : (s.note e).mem = s.mem := by
  cases e <;> rfl

@[simp] theorem note_params (s : State) (e : FloatEvent) : (s.note e).params = s.params := by
  cases e <;> rfl

/-! ### `setExt` -/

@[simp] theorem setExt_regs (s : State) (e : ExtReg) (v : Word) : (s.setExt e v).regs = s.regs := by
  cases e <;> rfl

@[simp] theorem setExt_taint (s : State) (e : ExtReg) (v : Word) : (s.setExt e v).taint = s.taint := by
  cases e <;> rfl

@[simp] theorem setExt_pc (s : State) (e : ExtReg) (v : Word) : (s.setExt e v).pc = s.pc := by
  cases e <;> rfl

@[simp] theorem setExt_ir (s : State) (e : ExtReg) (v : Word) : (s.setExt e v).ir = s.ir := by
  cases e <;> rfl

@[simp] theorem setExt_regOR (s : State) (e : ExtReg) (v : Word) : (s.setExt e v).regOR = if e = .overflow then v else s.regOR := by
  cases e <;> rfl

@[simp] theorem setExt_regRR (s : State) (e : ExtReg) (v : Word) : (s.setExt e v).regRR = if e = .remainder then v else s.regRR := by
  cases e <;> rfl

@[simp] theorem setExt_cb (s : State) (e : ExtReg) (v : Word) : (s.setExt e v).cb = s.cb := by
  cases e <;> rfl

@[simp] theorem setExt_ovf (s : State) (e : ExtReg) (v : Word) : (s.setExt e v).ovf = s.ovf := by
  cases e <;> rfl

@[simp] theorem setExt_unf (s : State) (e : ExtReg) (v : Word) : (s.setExt e v).unf = s.unf := by
  cases e <;> rfl

@[simp] theorem setExt_run (s : State) (e : ExtReg) (v : Word) : (s.setExt e v).run = s.run := by
  cases e <;> rfl

@[simp] theorem setExt_nib (s : State) (e : ExtReg) (v : Word) : (s.setExt e v).nib = s.nib := by
  cases e <;> rfl

@[simp] theorem setExt_mem (s : State) (e : ExtReg) (v : Word) : (s.setExt e v).mem = s.mem := by
  cases e <;> rfl

@[simp] theorem setExt_params (s : State) (e : ExtReg) (v : Word) : (s.setExt e v).params = s.params := by
  cases e <;> rfl

/-! ### `overflowCall` -/

@[simp] theorem overflowCall_regs (s : State) (a : Word) (o : Bool) : (s.overflowCall a o).regs = s.regs := by
  unfold State.overflowCall; split <;> rfl

@[simp] theorem overflowCall_taint (s : State) (a : Word) (o : Bool) : (s.overflowCall a o).taint = s.taint := by
  unfold State.overflowCall; split <;> rfl

@[simp] theorem overflowCall_pc (s : State) (a : Word) (o : Bool) : (s.overflowCall a o).pc = s.pc := by
  unfold State.overflowCall; split <;> rfl

@[simp] theorem overflowCall_ir (s : State) (a : Word) (o : Bool) : (s.overflowCall a o).ir = s.ir := by
  unfold State.overflowCall; split <;> rfl

@[simp] theorem overflowCall_regOR (s : State) (a : Word) (o : Bool) : (s.overflowCall a o).regOR = s.regOR := by
  unfold State.overflowCall; split <;> rfl

@[simp] theorem overflowCall_regRR (s : State) (a : Word) (o : Bool) : (s.overflowCall a o).regRR = s.regRR := by
  unfold State.overflowCall; split <;> rfl

@[simp] theorem overflowCall_cb (s : State) (a : Word) (o : Bool) : (s.overflowCall a o).cb = s.cb := by
  unfold State.overflowCall; split <;> rfl

@[simp] theorem overflowCall_ovf (s : State) (a : Word) (o : Bool) : (s.overflowCall a o).ovf = s.ovf := by
  unfold State.overflowCall; split <;> rfl

@[simp] theorem overflowCall_unf (s : State) (a : Word) (o : Bool) : (s.overflowCall a o).unf = s.unf := by
  unfold State.overflowCall; split <;> rfl

@[simp] theorem overflowCall_run (s : State) (a : Word) (o : Bool) : (s.overflowCall a o).run = if o = true ∧ s.params.overflowAction = .monitorCall then .stopped (.overflow a) else s.run := by
  unfold State.overflowCall; split <;> simp_all [State.monitorCall]

@[simp] theorem overflowCall_nib (s : State) (a : Word) (o : Bool) : (s.overflowCall a o).nib = s.nib := by
  unfold State.overflowCall; split <;> rfl

@[simp] theorem overflowCall_mem (s : State) (a : Word) (o : Bool) : (s.overflowCall a o).mem = s.mem := by
  unfold State.overflowCall; split <;> rfl

@[simp] theorem overflowCall_params (s : State) (a : Word) (o : Bool) : (s.overflowCall a o).params = s.params := by
  unfold State.overflowCall; split <;> rfl

/-! ## Registers and taint depend on their fields only -/

theorem reg_congr {s t : State} (h : t.regs = s.regs) (r : Reg) : t.reg r = s.reg r := by
  simp only [State.reg, h]

theorem isTainted_congr {s t : State} (h : t.taint = s.taint) (b : BitVec 4) :
    t.isTainted b = s.isTainted b := by
  simp only [State.isTainted, h]

@[simp] theorem reg_zero (s : State) : s.reg 0#6 = 0#32 := rfl

@[simp] theorem isTainted_zero (s : State) : s.isTainted 0#4 = false := rfl

@[simp] theorem next_reg (s : State) (r : Reg) : s.next.reg r = s.reg r := rfl

@[simp] theorem skip_reg (s : State) (r : Reg) : s.skip.reg r = s.reg r := rfl

@[simp] theorem jump_reg (s : State) (a : Word) (r : Reg) : (s.jump a).reg r = s.reg r := rfl

@[simp] theorem monitorCall_reg (s : State) (c : StopCause) (r : Reg) :
    (s.monitorCall c).reg r = s.reg r := rfl

@[simp] theorem issue_reg (s : State) (w : Word) (r : Reg) : (s.issue w).reg r = s.reg r := rfl

@[simp] theorem skipIf_reg (s : State) (c : Bool) (r : Reg) : (s.skipIf c).reg r = s.reg r :=
  reg_congr (skipIf_regs ..) r

@[simp] theorem jumpIf_reg (s : State) (c : Bool) (a : Word) (r : Reg) :
    (s.jumpIf c a).reg r = s.reg r :=
  reg_congr (jumpIf_regs ..) r

@[simp] theorem note_reg (s : State) (e : FloatEvent) (r : Reg) : (s.note e).reg r = s.reg r :=
  reg_congr (note_regs ..) r

@[simp] theorem setExt_reg (s : State) (e : ExtReg) (v : Word) (r : Reg) :
    (s.setExt e v).reg r = s.reg r :=
  reg_congr (setExt_regs ..) r

@[simp] theorem overflowCall_reg (s : State) (a : Word) (o : Bool) (r : Reg) :
    (s.overflowCall a o).reg r = s.reg r :=
  reg_congr (overflowCall_regs ..) r

@[simp] theorem next_isTainted (s : State) (b : BitVec 4) : s.next.isTainted b = s.isTainted b := rfl

@[simp] theorem skip_isTainted (s : State) (b : BitVec 4) : s.skip.isTainted b = s.isTainted b := rfl

@[simp] theorem jump_isTainted (s : State) (a : Word) (b : BitVec 4) :
    (s.jump a).isTainted b = s.isTainted b := rfl

@[simp] theorem monitorCall_isTainted (s : State) (c : StopCause) (b : BitVec 4) :
    (s.monitorCall c).isTainted b = s.isTainted b := rfl

@[simp] theorem issue_isTainted (s : State) (w : Word) (b : BitVec 4) :
    (s.issue w).isTainted b = s.isTainted b := rfl

@[simp] theorem skipIf_isTainted (s : State) (c : Bool) (b : BitVec 4) :
    (s.skipIf c).isTainted b = s.isTainted b :=
  isTainted_congr (skipIf_taint ..) b

@[simp] theorem jumpIf_isTainted (s : State) (c : Bool) (a : Word) (b : BitVec 4) :
    (s.jumpIf c a).isTainted b = s.isTainted b :=
  isTainted_congr (jumpIf_taint ..) b

@[simp] theorem note_isTainted (s : State) (e : FloatEvent) (b : BitVec 4) :
    (s.note e).isTainted b = s.isTainted b :=
  isTainted_congr (note_taint ..) b

@[simp] theorem setExt_isTainted (s : State) (e : ExtReg) (v : Word) (b : BitVec 4) :
    (s.setExt e v).isTainted b = s.isTainted b :=
  isTainted_congr (setExt_taint ..) b

@[simp] theorem overflowCall_isTainted (s : State) (a : Word) (o : Bool) (b : BitVec 4) :
    (s.overflowCall a o).isTainted b = s.isTainted b :=
  isTainted_congr (overflowCall_taint ..) b

/-! ## Writing a general register -/

/-- The register written reads the value, GR_0 stays zero, and every other register is unchanged. -/
theorem writeReg_reg (s : State) (r q : Reg) (v : Word) (x : Bool) :
    (s.writeReg r v x).reg q = if q = r ∧ r ≠ 0#6 then v else s.reg q := by
  unfold State.writeReg
  by_cases hr : r = 0#6
  · simp [hr]
  · simp only [hr, if_false, State.reg]
    by_cases hq : q = r
    · subst hq
      simp only [hr, if_false, ne_eq, not_false_eq_true, and_self, if_true, Vector.getElem_set_self]
    · have : r.toNat ≠ q.toNat := fun h => hq (BitVec.eq_of_toNat_eq h.symm)
      simp [hq, this]

@[simp] theorem lowReg_toNat (b : BitVec 4) : (lowReg b).toNat = b.toNat := by
  revert b; decide

/-- The taint of a base register after a write: the register written takes the given taint. -/
theorem writeReg_isTainted (s : State) (r : Reg) (b : BitVec 4) (v : Word) (x : Bool) :
    (s.writeReg r v x).isTainted b = if lowReg b = r ∧ r ≠ 0#6 then x else s.isTainted b := by
  have hlow : (lowReg b).toNat = b.toNat := lowReg_toNat b
  unfold State.writeReg
  by_cases hr : r = 0#6
  · simp [hr]
  · simp only [hr, if_false, State.isTainted, taintAfter]
    by_cases hb : b = 0#4
    · subst hb
      have : lowReg 0#4 ≠ r := fun h => hr (by rw [← h]; rfl)
      simp [this]
    · simp only [hb, if_false]
      by_cases hlr : lowReg b = r
      · have hrb : r.toNat = b.toNat := by rw [← hlr, hlow]
        have hlt : b.toNat < 16 := b.isLt
        simp only [hlr, hr, hrb, hlt, dite_true, Vector.getElem_set_self, ne_eq, not_false_eq_true,
          and_self, if_true]
      · have hne : r.toNat ≠ b.toNat := fun h => hlr (BitVec.eq_of_toNat_eq (by rw [hlow, h]))
        by_cases hlt : r.toNat < 16
        · simp [hlr, hlt, hne]
        · simp [hlr, hlt]

@[simp] theorem setReg_reg (s : State) (r q : Reg) (v : Word) :
    (s.setReg r v).reg q = if q = r ∧ r ≠ 0#6 then v else s.reg q :=
  writeReg_reg ..

@[simp] theorem setTaintedReg_reg (s : State) (r q : Reg) (v : Word) :
    (s.setTaintedReg r v).reg q = if q = r ∧ r ≠ 0#6 then v else s.reg q :=
  writeReg_reg ..

@[simp] theorem setReg_isTainted (s : State) (r : Reg) (b : BitVec 4) (v : Word) :
    (s.setReg r v).isTainted b = if lowReg b = r ∧ r ≠ 0#6 then false else s.isTainted b :=
  writeReg_isTainted ..

@[simp] theorem setTaintedReg_isTainted (s : State) (r : Reg) (b : BitVec 4) (v : Word) :
    (s.setTaintedReg r v).isTainted b = if lowReg b = r ∧ r ≠ 0#6 then true else s.isTainted b :=
  writeReg_isTainted ..

end Sys2Proof.Machine
end

