-- ==== Sys2Proof/Laws/Memory.lean ====
section
/-! SUPPORT. The laws of memory: a byte or a word reads as it was last written, every other one is left
alone, and every operation keeps the canonical form. -/

namespace Sys2Proof.Machine

/-! ## Bytes -/

/-- Lowering the bound keeps the form. -/
theorem wfAbove_mono {m : Memory} {k l : Nat} (hkl : k ≤ l) (h : m.wfAbove l = true) :
    m.wfAbove k = true := by
  cases m with
  | nil => rfl
  | cons c m =>
    obtain ⟨a, v⟩ := c
    simp only [Memory.wfAbove, Bool.and_eq_true, decide_eq_true_eq] at h ⊢
    exact ⟨⟨by omega, h.1.2⟩, h.2⟩

/-- An address below the bound reads as an unlisted one. -/
theorem readByte_below {m : Memory} {k a : Nat} (h : m.wfAbove k = true) (ha : a < k) :
    m.readByte a = Config.unlistedByte := by
  induction m generalizing k with
  | nil => rfl
  | cons c m ih =>
    obtain ⟨b, v⟩ := c
    simp only [Memory.wfAbove, Bool.and_eq_true, decide_eq_true_eq] at h
    have hb : b ≠ a := by omega
    rw [Memory.readByte, if_neg hb]
    exact ih h.2 (by omega)

/-- A write leaves every other byte alone. -/
theorem readByte_writeByte_ne (m : Memory) {a x : Nat} (v : Byte) (h : x ≠ a) :
    (m.writeByte a v).readByte x = m.readByte x := by
  have ha : a ≠ x := fun e => h e.symm
  induction m with
  | nil => unfold Memory.writeByte; split <;> simp [Memory.readByte, ha]
  | cons c m ih =>
    obtain ⟨b, u⟩ := c
    unfold Memory.writeByte
    split
    · split <;> simp [Memory.readByte, ha]
    · split
      · rename_i hab
        subst hab
        split <;> simp [Memory.readByte, ha]
      · simp only [Memory.readByte, ih]

/-- In canonical memory a byte reads as it was written. -/
theorem readByte_writeByte_self {m : Memory} {k a : Nat} (v : Byte) (h : m.wfAbove k = true) :
    (m.writeByte a v).readByte a = v := by
  induction m generalizing k with
  | nil => unfold Memory.writeByte; split <;> simp_all [Memory.readByte]
  | cons c m ih =>
    obtain ⟨b, u⟩ := c
    simp only [Memory.wfAbove, Bool.and_eq_true, decide_eq_true_eq] at h
    unfold Memory.writeByte
    split
    · rename_i hab
      split
      · rename_i hv
        have hb : b ≠ a := by omega
        rw [Memory.readByte, if_neg hb, hv]
        exact readByte_below h.2 (by omega)
      · simp [Memory.readByte]
    · split
      · rename_i hab
        split
        · rename_i hv
          subst hab
          rw [hv]
          exact readByte_below h.2 (by omega)
        · simp [Memory.readByte]
      · rename_i hab
        have hb : b ≠ a := fun e => hab e.symm
        rw [Memory.readByte, if_neg hb]
        exact ih h.2

/-- A write at or above the bound keeps the canonical form. -/
theorem writeByte_wfAbove {m : Memory} {k a : Nat} (v : Byte) (h : m.wfAbove k = true)
    (hk : k ≤ a) : (m.writeByte a v).wfAbove k = true := by
  induction m generalizing k with
  | nil => unfold Memory.writeByte; split <;> simp_all [Memory.wfAbove]
  | cons c m ih =>
    obtain ⟨b, u⟩ := c
    have h' := h
    simp only [Memory.wfAbove, Bool.and_eq_true, decide_eq_true_eq] at h
    unfold Memory.writeByte
    split
    · rename_i hab
      split
      · exact h'
      · rename_i hv
        simp only [Memory.wfAbove, Bool.and_eq_true, decide_eq_true_eq]
        exact ⟨⟨hk, hv⟩, ⟨⟨by omega, h.1.2⟩, h.2⟩⟩
    · split
      · rename_i hab
        subst hab
        split
        · exact wfAbove_mono (by omega) h.2
        · rename_i hv
          simp only [Memory.wfAbove, Bool.and_eq_true, decide_eq_true_eq]
          exact ⟨⟨hk, hv⟩, h.2⟩
      · rename_i h1 h2
        simp only [Memory.wfAbove, Bool.and_eq_true, decide_eq_true_eq]
        exact ⟨h.1, ih h.2 (by omega)⟩

theorem writeByte_wf {m : Memory} (a : Nat) (v : Byte) (h : m.wf = true) :
    (m.writeByte a v).wf = true :=
  writeByte_wfAbove v h (Nat.zero_le a)

/-- A write lists no address but the one written and those listed before. -/
theorem mem_writeByte {m : Memory} {a : Nat} {v : Byte} {c : Host.Cell} (h : c ∈ m.writeByte a v) :
    c.1 = a ∨ c ∈ m := by
  induction m with
  | nil =>
    unfold Memory.writeByte at h
    split at h <;> simp_all
  | cons d m ih =>
    obtain ⟨b, u⟩ := d
    unfold Memory.writeByte at h
    split at h
    · split at h
      · exact .inr h
      · rcases List.mem_cons.1 h with rfl | h
        · exact .inl rfl
        · exact .inr h
    · split at h
      · split at h
        · exact .inr (List.mem_cons_of_mem _ h)
        · rcases List.mem_cons.1 h with rfl | h
          · exact .inl rfl
          · exact .inr (List.mem_cons_of_mem _ h)
      · rcases List.mem_cons.1 h with rfl | h
        · exact .inr (List.mem_cons_self ..)
        · rcases ih h with h | h
          · exact .inl h
          · exact .inr (List.mem_cons_of_mem _ h)

/-! ## Words -/

/-- Writing a word leaves every byte outside its four alone. -/
theorem readByte_writeWord_ne (m : Memory) {a x : Nat} (v : Word) (h : x / 4 ≠ a) :
    (m.writeWord a v).readByte x = m.readByte x := by
  unfold Memory.writeWord
  rw [readByte_writeByte_ne _ _ (by omega), readByte_writeByte_ne _ _ (by omega),
    readByte_writeByte_ne _ _ (by omega), readByte_writeByte_ne _ _ (by omega)]

/-- Writing a word leaves every other word alone (20_memory.md R62). -/
theorem readWord_writeWord_ne (m : Memory) {a x : Nat} (v : Word) (h : x ≠ a) :
    (m.writeWord a v).readWord x = m.readWord x := by
  unfold Memory.readWord
  rw [readByte_writeWord_ne _ _ (by omega), readByte_writeWord_ne _ _ (by omega),
    readByte_writeWord_ne _ _ (by omega), readByte_writeWord_ne _ _ (by omega)]

theorem wordOfBytes_extract (v : Word) :
    wordOfBytes (v.extractLsb' 24 8) (v.extractLsb' 16 8) (v.extractLsb' 8 8) (v.extractLsb' 0 8) =
      v := by
  refine BitVec.eq_of_getLsbD_eq fun i hi => ?_
  unfold wordOfBytes
  simp only [BitVec.getLsbD_append, BitVec.getLsbD_extractLsb']
  by_cases h0 : i < 8
  · simp [h0]
  by_cases h1 : i - 8 < 8
  · simp [h0, h1]; congr 1; omega
  by_cases h2 : i - 8 - 8 < 8
  · simp [h0, h1, h2]; congr 1; omega
  · have h3 : i - 8 - 8 - 8 < 8 := by omega
    simp [h0, h1, h2, h3]; congr 1; omega

theorem writeWord_wf {m : Memory} (a : Nat) (v : Word) (h : m.wf = true) :
    (m.writeWord a v).wf = true :=
  writeByte_wf _ _ (writeByte_wf _ _ (writeByte_wf _ _ (writeByte_wf _ _ h)))

/-- In canonical memory a word reads as it was written (20_memory.md R62). -/
theorem readWord_writeWord_self {m : Memory} (a : Nat) (v : Word) (h : m.wf = true) :
    (m.writeWord a v).readWord a = v := by
  have h1 := writeByte_wf (4 * a) (v.extractLsb' 24 8) h
  have h2 := writeByte_wf (4 * a + 1) (v.extractLsb' 16 8) h1
  have h3 := writeByte_wf (4 * a + 2) (v.extractLsb' 8 8) h2
  unfold Memory.readWord Memory.writeWord
  rw [readByte_writeByte_self _ h3, readByte_writeByte_ne _ _ (by omega : 4 * a + 2 ≠ 4 * a + 3),
    readByte_writeByte_self _ h2, readByte_writeByte_ne _ _ (by omega : 4 * a + 1 ≠ 4 * a + 3),
    readByte_writeByte_ne _ _ (by omega : 4 * a + 1 ≠ 4 * a + 2), readByte_writeByte_self _ h1,
    readByte_writeByte_ne _ _ (by omega : 4 * a ≠ 4 * a + 3),
    readByte_writeByte_ne _ _ (by omega : 4 * a ≠ 4 * a + 2),
    readByte_writeByte_ne _ _ (by omega : 4 * a ≠ 4 * a + 1), readByte_writeByte_self _ h,
    wordOfBytes_extract]

/-- A word write lists no address but its four and those listed before. -/
theorem mem_writeWord {m : Memory} {a : Nat} {v : Word} {c : Host.Cell} (h : c ∈ m.writeWord a v) :
    c.1 / 4 = a ∨ c ∈ m := by
  rcases mem_writeByte h with h | h
  · exact .inl (by omega)
  rcases mem_writeByte h with h | h
  · exact .inl (by omega)
  rcases mem_writeByte h with h | h
  · exact .inl (by omega)
  rcases mem_writeByte h with h | h
  · exact .inl (by omega)
  · exact .inr h

/-- The memory of the reset state has the canonical form. -/
theorem reset_mem_wf : State.reset.mem.wf = true := rfl

end Sys2Proof.Machine
end

