-- ==== Sys2Proof/Laws/Ops.lean ====
section
/-! SUPPORT. One lemma per shared operation that says what it can do: stops and sequencing, memory
accesses, the effective address, the frame of a register write, the monitor call, and the fetch. -/

namespace Sys2Proof.Machine

/-! ## Sequencing -/

/-- A sequence succeeds when its first part does and the rest does. -/
theorem bind_ok_iff {α β : Type} {x : Res α} {f : α → Res β} {b : β} :
    (x >>= f) = .ok b ↔ ∃ a, x = .ok a ∧ f a = .ok b := by
  cases x with
  | ok a =>
    constructor
    · exact fun h => ⟨a, rfl, h⟩
    · rintro ⟨_, ⟨⟩, h⟩
      exact h
  | error e =>
    constructor
    · intro h
      cases h
    · rintro ⟨_, h, _⟩
      cases h

@[simp] theorem ok_bind {α β : Type} (a : α) (f : α → Res β) : ((.ok a : Res α) >>= f) = f a := rfl

@[simp] theorem error_bind {α β : Type} (e : Halt) (f : α → Res β) :
    ((.error e : Res α) >>= f) = .error e := rfl

@[simp] theorem pure_ok {α : Type} (a : α) : (pure a : Res α) = .ok a := rfl

/-- A meaning answers a next state exactly when its computation succeeds. -/
theorem deliver_next_iff {x : Res State} {t : State} : deliver x = .next t ↔ x = .ok t := by
  cases x with
  | ok s => simp [deliver]
  | error h => cases h <;> simp [deliver]

@[simp] theorem deliver_ok (s : State) : deliver (.ok s) = .next s := rfl

/-! ## Memory accesses -/

/-- A read succeeds inside memory only, with the word that is there (20_memory.md R61, R62). -/
theorem load_ok_iff {s : State} {k : Access} {a v : Word} :
    s.load k a = .ok v ↔ a.toNat < s.params.memWords ∧ v = s.mem.readWord a.toNat := by
  unfold State.load
  split <;> simp_all [eq_comm]

theorem load_inside {s : State} (k : Access) {a : Word} (h : a.toNat < s.params.memWords) :
    s.load k a = .ok (s.mem.readWord a.toNat) := by
  rw [State.load, if_pos h]

theorem load_outside {s : State} (k : Access) {a : Word} (h : s.params.memWords ≤ a.toNat) :
    s.load k a = .error (.fault (.addressOutOfRange k a)) := by
  rw [State.load, if_neg (by omega)]

/-- A write succeeds inside memory only, and changes that word and the buffer (R61, R62, R75). -/
theorem store_ok_iff {s t : State} {a v : Word} :
    s.store a v = .ok t ↔ a.toNat < s.params.memWords ∧ t = { s with
      mem := s.mem.writeWord a.toNat v
      nib := if a = s.pc + 1 then some ⟨a, s.mem.readWord a.toNat⟩ else s.nib } := by
  unfold State.store
  split <;> simp_all [eq_comm]

theorem store_inside {s : State} {a : Word} (v : Word) (h : a.toNat < s.params.memWords) :
    s.store a v = .ok { s with
      mem := s.mem.writeWord a.toNat v
      nib := if a = s.pc + 1 then some ⟨a, s.mem.readWord a.toNat⟩ else s.nib } := by
  rw [State.store, if_pos h]

theorem store_outside {s : State} {a : Word} (v : Word) (h : s.params.memWords ≤ a.toNat) :
    s.store a v = .error (.fault (.addressOutOfRange .write a)) := by
  rw [State.store, if_neg (by omega)]

/-- A double read is its two reads, the left portion word first (20_memory.md R63, R66). -/
theorem load2_ok_iff {s : State} {a : Word} {v : DWord} :
    s.load2 a = .ok v ↔ a.toNat < s.params.memWords ∧ (a + 1).toNat < s.params.memWords ∧
      v = s.mem.readWord a.toNat ++ s.mem.readWord (a + 1).toNat := by
  unfold State.load2
  simp only [bind_ok_iff, load_ok_iff, pure_ok, Except.ok.injEq]
  constructor
  · rintro ⟨_, ⟨h1, rfl⟩, _, ⟨h2, rfl⟩, rfl⟩
    exact ⟨h1, h2, rfl⟩
  · rintro ⟨h1, h2, rfl⟩
    exact ⟨_, ⟨h1, rfl⟩, _, ⟨h2, rfl⟩, rfl⟩

/-- A double write is its two writes, at `a` first (20_memory.md R63, R66). -/
theorem store2_ok_iff {s t : State} {a hi lo : Word} :
    s.store2 a hi lo = .ok t ↔ ∃ u, s.store a hi = .ok u ∧ u.store (a + 1) lo = .ok t := by
  unfold State.store2
  exact bind_ok_iff

/-- A memory operand of precision p. -/
theorem loadFloat_ok_iff {s : State} {p : Precision} {a : Word} {v : Nat} :
    s.loadFloat p a = .ok v ↔
      match p with
      | .single => s.load .read a = .ok (BitVec.ofNat 32 v) ∧ v < 2 ^ 32
      | .double => s.load2 a = .ok (BitVec.ofNat 64 v) ∧ v < 2 ^ 64 := by
  cases p with
  | single =>
    simp only [State.loadFloat, bind_ok_iff, pure_ok, Except.ok.injEq]
    constructor
    · rintro ⟨w, h, rfl⟩
      exact ⟨by rw [h, BitVec.ofNat_toNat, BitVec.setWidth_eq], w.isLt⟩
    · rintro ⟨h, hv⟩
      exact ⟨_, h, by rw [BitVec.toNat_ofNat, Nat.mod_eq_of_lt hv]⟩
  | double =>
    simp only [State.loadFloat, bind_ok_iff, pure_ok, Except.ok.injEq]
    constructor
    · rintro ⟨w, h, rfl⟩
      exact ⟨by rw [h, BitVec.ofNat_toNat, BitVec.setWidth_eq], w.isLt⟩
    · rintro ⟨h, hv⟩
      exact ⟨_, h, by rw [BitVec.toNat_ofNat, Nat.mod_eq_of_lt hv]⟩

/-! ## The effective address -/

/-- A base or index register is read when it is not tainted (40_memory_reference.md R134). -/
theorem addressReg_ok_iff {s : State} {r : BitVec 4} {v : Word} :
    s.addressReg r = .ok v ↔ s.isTainted r = false ∧ v = s.reg (lowReg r) := by
  unfold State.addressReg refuse
  split
  · rename_i h
    simp [h]
  · rename_i h
    simp only [Bool.not_eq_true] at h
    simp [h, eq_comm (a := v)]

/-- Base plus index plus displacement (40_memory_reference.md R130, R134). -/
theorem address_ok_iff {s : State} {b x : BitVec 4} {d v : Word} :
    s.address b x d = .ok v ↔ s.isTainted b = false ∧ s.isTainted x = false ∧
      v = s.reg (lowReg b) + s.reg (lowReg x) + d := by
  unfold State.address
  simp only [bind_ok_iff, addressReg_ok_iff, pure_ok, Except.ok.injEq]
  constructor
  · rintro ⟨_, ⟨h1, rfl⟩, _, ⟨h2, rfl⟩, rfl⟩
    exact ⟨h1, h2, rfl⟩
  · rintro ⟨h1, h2, rfl⟩
    exact ⟨_, ⟨h1, rfl⟩, _, ⟨h2, rfl⟩, rfl⟩

/-- One more level of indirection (40_memory_reference.md R131). -/
theorem indirect_succ_ok_iff {s : State} {n : Nat} {a ea : Word} :
    s.indirect (n + 1) a = .ok ea ↔ ∃ w, s.load .indirect a = .ok w ∧ w.extractLsb' 20 3 = 0#3 ∧
      ∃ e, s.address (w.extractLsb' 23 4) (w.extractLsb' 27 4)
          ((w.extractLsb' 0 20).setWidth 32) = .ok e ∧
        if w.getLsbD 31 then s.indirect n e = .ok ea else e = ea := by
  rw [State.indirect, bind_ok_iff]
  refine exists_congr fun w => and_congr_right fun _ => ?_
  unfold refuse
  split
  · rename_i h
    simp only [bind_ok_iff, h, true_and]
    refine exists_congr fun e => and_congr_right fun _ => ?_
    split <;> simp
  · rename_i h
    simp [h]

theorem indirect_zero (s : State) (a : Word) :
    s.indirect 0 a = .error (.refusal .indirectTooDeep) := rfl

/-- A chain of indirect address words that goes on is read through: what is left is the calculation at its
end, with as many levels fewer (40_memory_reference.md R131). -/
theorem indirect_of_reach {s : State} {n : Nat} {a b : Word} (h : IndirectReach s n a b) (k : Nat) :
    s.indirect (n + k) a = s.indirect k b := by
  induction h with
  | here => rw [Nat.zero_add]
  | @more a b n w inside word zero base index flag rest ih =>
    subst word
    have e : n + 1 + k = (n + k) + 1 := by omega
    rw [e, ← ih, State.indirect]
    simp only [State.load, inside, State.address, State.addressReg, base, index, zero, flag, bind, pure,
      Except.bind, Except.pure, ite_true, Bool.false_eq_true, ite_false]

/-- One more level of a chain that goes on, the next address given by an equation. -/
theorem indirectReach_cons {s : State} {n : Nat} {a b c : Word} (inside : a.toNat < s.params.memWords)
    (zero : (s.mem.readWord a.toNat).extractLsb' 20 3 = 0#3)
    (base : s.isTainted ((s.mem.readWord a.toNat).extractLsb' 23 4) = false)
    (index : s.isTainted ((s.mem.readWord a.toNat).extractLsb' 27 4) = false)
    (flag : (s.mem.readWord a.toNat).getLsbD 31 = true)
    (next : s.reg (lowReg ((s.mem.readWord a.toNat).extractLsb' 23 4)) +
      s.reg (lowReg ((s.mem.readWord a.toNat).extractLsb' 27 4)) +
        ((s.mem.readWord a.toNat).extractLsb' 0 20).setWidth 32 = c)
    (rest : IndirectReach s n c b) : IndirectReach s (n + 1) a b :=
  .more _ inside rfl zero base index flag (next ▸ rest)

/-- Ea without and with the I flag (40_memory_reference.md R130, R131). -/
theorem effAddr_ok_iff {s : State} {m : MemRef} {ea : Word} :
    s.effAddr m = .ok ea ↔ ∃ e, s.address m.b m.x (m.d.setWidth 32) = .ok e ∧
      if m.i then s.indirect maxIndirect e = .ok ea else e = ea := by
  unfold State.effAddr
  rw [bind_ok_iff]
  refine exists_congr fun e => and_congr_right fun _ => ?_
  split <;> simp

/-! ## The monitor call -/

/-- The overflow monitor call changes the run state only, and only when it is asked for
(60_exceptions.md R372). -/
theorem overflowCall_cases (s : State) (a : Word) (o : Bool) :
    s.overflowCall a o = s ∨
      (o = true ∧ s.params.overflowAction = .monitorCall ∧
        s.overflowCall a o = { s with run := .stopped (.overflow a) }) := by
  unfold State.overflowCall
  split
  · rename_i h
    exact .inr ⟨rfl, h, rfl⟩
  · exact .inl rfl

@[simp] theorem overflowCall_false (s : State) (a : Word) : s.overflowCall a false = s := by
  unfold State.overflowCall
  split <;> simp_all

/-! ## Fetch -/

/-- The fetch answers the buffered word of P if there is one, else the word in memory (20_memory.md
R75). -/
theorem fetch_ok_iff {s : State} {w : Word} :
    s.fetch = .ok w ↔ (∃ b, s.nib = some b ∧ b.addr = s.pc ∧ w = b.word) ∨
      ((∀ b, s.nib = some b → b.addr ≠ s.pc) ∧ s.load .fetch s.pc = .ok w) := by
  unfold State.fetch
  cases hn : s.nib with
  | none => simp
  | some b =>
    by_cases hb : b.addr = s.pc <;> simp [hb, eq_comm]

/-! ## EXC -/

/-- An instruction other than EXC has its own effect. -/
theorem executed_of_not_exc {i : Instr} (h : isExc i = false) (s : State) : executed i s = i := by
  cases i <;> first | rfl | cases h

end Sys2Proof.Machine
end

