-- ==== Sys2Proof/Laws/Frame.lean ====
section
/-! SUPPORT. How the terms of Sys2Proof/Safety.lean are established: what a register write leaves, and how
frames compose. -/

namespace Sys2Proof.Machine

@[simp] theorem lowReg_eq_zero_iff (b : BitVec 4) : lowReg b = 0#6 ↔ b = 0#4 := by
  revert b; decide

/-- Registers read from the fields `regs` alone. -/
@[simp] theorem mk_reg (s : State) (r : Reg) (pc ir o rr : Word) (cb ovf unf : Bool) (run : RunState)
    (nib : Option NextBuffer) (mem : Memory) (params : Params) :
    (State.mk s.regs s.taint pc ir o rr cb ovf unf run nib mem params).reg r = s.reg r := rfl

/-- Taint reads from the field `taint` alone. -/
@[simp] theorem mk_isTainted (s : State) (b : BitVec 4) (pc ir o rr : Word) (cb ovf unf : Bool)
    (run : RunState) (nib : Option NextBuffer) (mem : Memory) (params : Params) :
    (State.mk s.regs s.taint pc ir o rr cb ovf unf run nib mem params).isTainted b =
      s.isTainted b := rfl

/-- A register write leaves the register written, GR_0 included. -/
theorem wrote_writeReg (s : State) (r : Reg) (v : Word) (x : Bool) :
    Wrote (s.writeReg r v x) r v x := by
  by_cases h : r = 0#6
  · subst h
    exact ⟨by simp, fun b hb => by
      rw [lowReg_eq_zero_iff] at hb
      simp [hb]⟩
  · exact ⟨by simp [writeReg_reg, h], fun b hb => by
      have hb0 : b ≠ 0#4 := fun e => h (by rw [← hb, e]; rfl)
      simp [writeReg_isTainted, hb, h, hb0]⟩

theorem wrote_setReg (s : State) (r : Reg) (v : Word) : Wrote (s.setReg r v) r v false :=
  wrote_writeReg ..

theorem wrote_setTaintedReg (s : State) (r : Reg) (v : Word) :
    Wrote (s.setTaintedReg r v) r v true :=
  wrote_writeReg ..

end Sys2Proof.Machine

namespace Sys2Proof

open Sys2Proof.Machine

/-- What was written stays written while registers and taint stay. -/
theorem Wrote.congr {s t : State} {r : Reg} {v : Word} {x : Bool} (h : Wrote s r v x)
    (hr : t.regs = s.regs) (ht : t.taint = s.taint) : Wrote t r v x :=
  ⟨(reg_congr hr r).trans h.value, fun b hb => (isTainted_congr ht b).trans (h.taint b hb)⟩

/-- A write of another register leaves it written. -/
theorem Wrote.writeReg {s : State} {r q : Reg} {v u : Word} {x y : Bool} (h : Wrote s r v x)
    (hq : r ≠ q) : Wrote (s.writeReg q u y) r v x :=
  ⟨by rw [writeReg_reg, if_neg (fun e => hq e.1)]; exact h.value, fun b hb => by
    rw [writeReg_isTainted, if_neg (fun e => hq (hb.symm.trans e.1))]
    exact h.taint b hb⟩

/-- A frame with more registers and more parts. -/
theorem Unchanged.mono {s t : State} {rs rs' : List Reg} {ps ps' : List Part}
    (h : Unchanged s t rs ps) (hr : ∀ r ∈ rs, r ∈ rs') (hp : ∀ p ∈ ps, p ∈ ps') :
    Unchanged s t rs' ps' where
  regs r hn := h.regs r fun e => hn (hr _ e)
  taint b hn := h.taint b fun e => hn (hr _ e)
  memory hn := h.memory fun e => hn (hp _ e)
  regOR hn := h.regOR fun e => hn (hp _ e)
  regRR hn := h.regRR fun e => hn (hp _ e)
  cb hn := h.cb fun e => hn (hp _ e)
  ovf hn := h.ovf fun e => hn (hp _ e)
  unf hn := h.unf fun e => hn (hp _ e)
  run hn := h.run fun e => hn (hp _ e)
  ir := h.ir
  params := h.params

/-- Frames compose. -/
theorem Unchanged.trans {s t u : State} {rs : List Reg} {ps : List Part}
    (h : Unchanged s t rs ps) (k : Unchanged t u rs ps) : Unchanged s u rs ps where
  regs r hn := (k.regs r hn).trans (h.regs r hn)
  taint b hn := (k.taint b hn).trans (h.taint b hn)
  memory hn a := (k.memory hn a).trans (h.memory hn a)
  regOR hn := (k.regOR hn).trans (h.regOR hn)
  regRR hn := (k.regRR hn).trans (h.regRR hn)
  cb hn := (k.cb hn).trans (h.cb hn)
  ovf hn := (k.ovf hn).trans (h.ovf hn)
  unf hn := (k.unf hn).trans (h.unf hn)
  run hn := (k.run hn).trans (h.run hn)
  ir := k.ir.trans h.ir
  params := k.params.trans h.params

end Sys2Proof
end

