-- ==== Sys2Proof/Laws/PerInstr.lean ====
section
/-! SUPPORT. What holds of every instruction as syntax, constructor by constructor (LAWS.json names the
family). -/

/-- Reading an instruction as its most specific row gives a well-formed instruction with the same word,
and changes nothing that is well-formed already (30_encoding.md R104, R106; log 35). -/
def Sys2Proof.Laws.Canonical.Statement (i : Sys2Proof.Instr) : Prop :=
  i.canon.wellFormed = true ∧ Sys2Proof.encode i.canon = Sys2Proof.encode i ∧
    (i.wellFormed = true → i.canon = i)

namespace Sys2Proof.Laws.Canonical

theorem rtj : ∀ r m, Statement (.rtj r m) :=
  fun _ _ => ⟨rfl, rfl, fun _ => rfl⟩

theorem exc : ∀ form x b d, Statement (.exc form x b d) :=
  fun _ _ _ _ => ⟨rfl, rfl, fun _ => rfl⟩

theorem min : ∀ r m, Statement (.min r m) :=
  fun _ _ => ⟨rfl, rfl, fun _ => rfl⟩

theorem crg : ∀ r m, Statement (.crg r m) :=
  fun _ _ => ⟨rfl, rfl, fun _ => rfl⟩

theorem crl : ∀ r m, Statement (.crl r m) :=
  fun _ _ => ⟨rfl, rfl, fun _ => rfl⟩

theorem cre : ∀ r m, Statement (.cre r m) :=
  fun _ _ => ⟨rfl, rfl, fun _ => rfl⟩

theorem crd : ∀ r m, Statement (.crd r m) :=
  fun _ _ => ⟨rfl, rfl, fun _ => rfl⟩

theorem jrp : ∀ r m, Statement (.jrp r m) :=
  fun _ _ => ⟨rfl, rfl, fun _ => rfl⟩

theorem jrn : ∀ r m, Statement (.jrn r m) :=
  fun _ _ => ⟨rfl, rfl, fun _ => rfl⟩

theorem jrz : ∀ r m, Statement (.jrz r m) :=
  fun _ _ => ⟨rfl, rfl, fun _ => rfl⟩

theorem jrf : ∀ r m, Statement (.jrf r m) :=
  fun _ _ => ⟨rfl, rfl, fun _ => rfl⟩

theorem jpm : ∀ r m, Statement (.jpm r m) :=
  fun _ _ => ⟨rfl, rfl, fun _ => rfl⟩

theorem jnm : ∀ r m, Statement (.jnm r m) :=
  fun _ _ => ⟨rfl, rfl, fun _ => rfl⟩

theorem jzm : ∀ r m, Statement (.jzm r m) :=
  fun _ _ => ⟨rfl, rfl, fun _ => rfl⟩

theorem jfm : ∀ r m, Statement (.jfm r m) :=
  fun _ _ => ⟨rfl, rfl, fun _ => rfl⟩

theorem add : ∀ r m, Statement (.add r m) :=
  fun _ _ => ⟨rfl, rfl, fun _ => rfl⟩

theorem sub : ∀ r m, Statement (.sub r m) :=
  fun _ _ => ⟨rfl, rfl, fun _ => rfl⟩

theorem and : ∀ r m, Statement (.and r m) :=
  fun _ _ => ⟨rfl, rfl, fun _ => rfl⟩

theorem ldr : ∀ r m, Statement (.ldr r m) :=
  fun _ _ => ⟨rfl, rfl, fun _ => rfl⟩

theorem adm : ∀ r m, Statement (.adm r m) :=
  fun _ _ => ⟨rfl, rfl, fun _ => rfl⟩

theorem fc21 : ∀ r m, Statement (.fc21 r m) :=
  fun _ _ => ⟨rfl, rfl, fun _ => rfl⟩

theorem xmr : ∀ r m, Statement (.xmr r m) :=
  fun _ _ => ⟨rfl, rfl, fun _ => rfl⟩

theorem str : ∀ r m, Statement (.str r m) :=
  fun _ _ => ⟨rfl, rfl, fun _ => rfl⟩

theorem mpy : ∀ r m, Statement (.mpy r m) :=
  fun _ _ => ⟨rfl, rfl, fun _ => rfl⟩

theorem div : ∀ r m, Statement (.div r m) :=
  fun _ _ => ⟨rfl, rfl, fun _ => rfl⟩

theorem ldd : ∀ fd m, Statement (.ldd fd m) :=
  fun _ _ => ⟨rfl, rfl, fun _ => rfl⟩

theorem std : ∀ fd m, Statement (.std fd m) :=
  fun _ _ => ⟨rfl, rfl, fun _ => rfl⟩

theorem fad : ∀ f m, Statement (.fad f m) :=
  fun _ _ => ⟨rfl, rfl, fun _ => rfl⟩

theorem fadd : ∀ f m, Statement (.fadd f m) :=
  fun _ _ => ⟨rfl, rfl, fun _ => rfl⟩

theorem fsb : ∀ f m, Statement (.fsb f m) :=
  fun _ _ => ⟨rfl, rfl, fun _ => rfl⟩

theorem fsbd : ∀ f m, Statement (.fsbd f m) :=
  fun _ _ => ⟨rfl, rfl, fun _ => rfl⟩

theorem fmu : ∀ f m, Statement (.fmu f m) :=
  fun _ _ => ⟨rfl, rfl, fun _ => rfl⟩

theorem fmud : ∀ f m, Statement (.fmud f m) :=
  fun _ _ => ⟨rfl, rfl, fun _ => rfl⟩

theorem fdv : ∀ f m, Statement (.fdv f m) :=
  fun _ _ => ⟨rfl, rfl, fun _ => rfl⟩

theorem fdvd : ∀ f m, Statement (.fdvd f m) :=
  fun _ _ => ⟨rfl, rfl, fun _ => rfl⟩

theorem stop : ∀ code, Statement (.stop code) :=
  fun _ => ⟨rfl, rfl, fun _ => rfl⟩

theorem rio : ∀ write dr sra ext, Statement (.rio write dr sra ext) := by
  intro write dr sra ext
  cases write <;>
    exact ⟨rfl, rfl, fun h => by first | rfl | cases h⟩

theorem rin : ∀ dr unused ext, Statement (.rin dr unused ext) :=
  fun _ _ _ => ⟨rfl, rfl, fun _ => rfl⟩

theorem rout : ∀ unused sra ext, Statement (.rout unused sra ext) :=
  fun _ _ _ => ⟨rfl, rfl, fun _ => rfl⟩

theorem shr : ∀ l r sm dr sra sc, Statement (.shr l r sm dr sra sc) := by
  intro l r sm dr sra sc
  cases l <;> cases r <;> cases sm <;>
    exact ⟨rfl, rfl, fun h => by first | rfl | cases h⟩

theorem slr : ∀ dr sra sc, Statement (.slr dr sra sc) :=
  fun _ _ _ => ⟨rfl, rfl, fun _ => rfl⟩

theorem srr : ∀ dr sra sc, Statement (.srr dr sra sc) :=
  fun _ _ _ => ⟨rfl, rfl, fun _ => rfl⟩

theorem sla : ∀ dr sra sc, Statement (.sla dr sra sc) :=
  fun _ _ _ => ⟨rfl, rfl, fun _ => rfl⟩

theorem sra : ∀ dr sra sc, Statement (.sra dr sra sc) :=
  fun _ _ _ => ⟨rfl, rfl, fun _ => rfl⟩

theorem sll : ∀ dr sra sc, Statement (.sll dr sra sc) :=
  fun _ _ _ => ⟨rfl, rfl, fun _ => rfl⟩

theorem srl : ∀ dr sra sc, Statement (.srl dr sra sc) :=
  fun _ _ _ => ⟨rfl, rfl, fun _ => rfl⟩

theorem shd : ∀ l r sm dfd srad sc, Statement (.shd l r sm dfd srad sc) := by
  intro l r sm dfd srad sc
  cases l <;> cases r <;> cases sm <;>
    exact ⟨rfl, rfl, fun h => by first | rfl | cases h⟩

theorem slrd : ∀ dfd srad sc, Statement (.slrd dfd srad sc) :=
  fun _ _ _ => ⟨rfl, rfl, fun _ => rfl⟩

theorem srrd : ∀ dfd srad sc, Statement (.srrd dfd srad sc) :=
  fun _ _ _ => ⟨rfl, rfl, fun _ => rfl⟩

theorem slad : ∀ dfd srad sc, Statement (.slad dfd srad sc) :=
  fun _ _ _ => ⟨rfl, rfl, fun _ => rfl⟩

theorem srad : ∀ dfd srad sc, Statement (.srad dfd srad sc) :=
  fun _ _ _ => ⟨rfl, rfl, fun _ => rfl⟩

theorem slld : ∀ dfd srad sc, Statement (.slld dfd srad sc) :=
  fun _ _ _ => ⟨rfl, rfl, fun _ => rfl⟩

theorem srld : ∀ dfd srad sc, Statement (.srld dfd srad sc) :=
  fun _ _ _ => ⟨rfl, rfl, fun _ => rfl⟩

theorem bst : ∀ dr sra bn, Statement (.bst dr sra bn) :=
  fun _ _ _ => ⟨rfl, rfl, fun _ => rfl⟩

theorem bcm : ∀ dr sra bn, Statement (.bcm dr sra bn) :=
  fun _ _ _ => ⟨rfl, rfl, fun _ => rfl⟩

theorem bcl : ∀ dr sra bn, Statement (.bcl dr sra bn) :=
  fun _ _ _ => ⟨rfl, rfl, fun _ => rfl⟩

theorem bsz : ∀ dr sra bn, Statement (.bsz dr sra bn) :=
  fun _ _ _ => ⟨rfl, rfl, fun _ => rfl⟩

theorem bso : ∀ dr sra bn, Statement (.bso dr sra bn) :=
  fun _ _ _ => ⟨rfl, rfl, fun _ => rfl⟩

theorem fix : ∀ dr f, Statement (.fix dr f) :=
  fun _ _ => ⟨rfl, rfl, fun _ => rfl⟩

theorem fir : ∀ dr f, Statement (.fir dr f) :=
  fun _ _ => ⟨rfl, rfl, fun _ => rfl⟩

theorem fixd : ∀ dr f, Statement (.fixd dr f) :=
  fun _ _ => ⟨rfl, rfl, fun _ => rfl⟩

theorem fird : ∀ dr f, Statement (.fird dr f) :=
  fun _ _ => ⟨rfl, rfl, fun _ => rfl⟩

theorem flo : ∀ f sra, Statement (.flo f sra) :=
  fun _ _ => ⟨rfl, rfl, fun _ => rfl⟩

theorem flod : ∀ f sra, Statement (.flod f sra) :=
  fun _ _ => ⟨rfl, rfl, fun _ => rfl⟩

theorem lro : ∀ ca cb lo dr sra srb, Statement (.lro ca cb lo dr sra srb) := by
  intro ca cb lo dr sra srb
  cases ca <;> cases cb <;> cases lo <;>
    exact ⟨rfl, rfl, fun h => by first | rfl | cases h⟩

theorem szr : ∀ dr sra srb, Statement (.szr dr sra srb) :=
  fun _ _ _ => ⟨rfl, rfl, fun _ => rfl⟩

theorem rnd : ∀ dr sra srb, Statement (.rnd dr sra srb) :=
  fun _ _ _ => ⟨rfl, rfl, fun _ => rfl⟩

theorem rnda : ∀ dr sra srb, Statement (.rnda dr sra srb) :=
  fun _ _ _ => ⟨rfl, rfl, fun _ => rfl⟩

theorem rndb : ∀ dr sra srb, Statement (.rndb dr sra srb) :=
  fun _ _ _ => ⟨rfl, rfl, fun _ => rfl⟩

theorem rxo : ∀ dr sra srb, Statement (.rxo dr sra srb) :=
  fun _ _ _ => ⟨rfl, rfl, fun _ => rfl⟩

theorem rxoa : ∀ dr sra srb, Statement (.rxoa dr sra srb) :=
  fun _ _ _ => ⟨rfl, rfl, fun _ => rfl⟩

theorem rxob : ∀ dr sra srb, Statement (.rxob dr sra srb) :=
  fun _ _ _ => ⟨rfl, rfl, fun _ => rfl⟩

theorem ror : ∀ dr sra srb, Statement (.ror dr sra srb) :=
  fun _ _ _ => ⟨rfl, rfl, fun _ => rfl⟩

theorem rora : ∀ dr sra srb, Statement (.rora dr sra srb) :=
  fun _ _ _ => ⟨rfl, rfl, fun _ => rfl⟩

theorem rorb : ∀ dr sra srb, Statement (.rorb dr sra srb) :=
  fun _ _ _ => ⟨rfl, rfl, fun _ => rfl⟩

theorem rfc11 : ∀ rsc low, Statement (.rfc11 rsc low) :=
  fun _ _ => ⟨rfl, rfl, fun _ => rfl⟩

theorem iroAddSub : ∀ sc ac subtract dr sra srb, Statement (.iroAddSub sc ac subtract dr sra srb) := by
  intro sc ac subtract dr sra srb
  cases sc <;> cases ac <;> cases subtract <;>
    exact ⟨rfl, rfl, fun h => by first | rfl | cases h⟩

theorem iroMulDiv : ∀ divide dr sra srb, Statement (.iroMulDiv divide dr sra srb) := by
  intro divide dr sra srb
  cases divide <;>
    exact ⟨rfl, rfl, fun h => by first | rfl | cases h⟩

theorem rad : ∀ dr sra srb, Statement (.rad dr sra srb) :=
  fun _ _ _ => ⟨rfl, rfl, fun _ => rfl⟩

theorem rsb : ∀ dr sra srb, Statement (.rsb dr sra srb) :=
  fun _ _ _ => ⟨rfl, rfl, fun _ => rfl⟩

theorem rmu : ∀ dr sra srb, Statement (.rmu dr sra srb) :=
  fun _ _ _ => ⟨rfl, rfl, fun _ => rfl⟩

theorem rdv : ∀ dr sra srb, Statement (.rdv dr sra srb) :=
  fun _ _ _ => ⟨rfl, rfl, fun _ => rfl⟩

theorem fro : ∀ op p df sra srb, Statement (.fro op p df sra srb) := by
  intro op p df sra srb
  cases op <;> cases p <;>
    exact ⟨rfl, rfl, fun h => by first | rfl | cases h⟩

theorem raf : ∀ df sra srb, Statement (.raf df sra srb) :=
  fun _ _ _ => ⟨rfl, rfl, fun _ => rfl⟩

theorem rsf : ∀ df sra srb, Statement (.rsf df sra srb) :=
  fun _ _ _ => ⟨rfl, rfl, fun _ => rfl⟩

theorem rmf : ∀ df sra srb, Statement (.rmf df sra srb) :=
  fun _ _ _ => ⟨rfl, rfl, fun _ => rfl⟩

theorem rdf : ∀ df sra srb, Statement (.rdf df sra srb) :=
  fun _ _ _ => ⟨rfl, rfl, fun _ => rfl⟩

theorem rafd : ∀ df sra srb, Statement (.rafd df sra srb) :=
  fun _ _ _ => ⟨rfl, rfl, fun _ => rfl⟩

theorem rsfd : ∀ df sra srb, Statement (.rsfd df sra srb) :=
  fun _ _ _ => ⟨rfl, rfl, fun _ => rfl⟩

theorem rmfd : ∀ df sra srb, Statement (.rmfd df sra srb) :=
  fun _ _ _ => ⟨rfl, rfl, fun _ => rfl⟩

theorem rdfd : ∀ df sra srb, Statement (.rdfd df sra srb) :=
  fun _ _ _ => ⟨rfl, rfl, fun _ => rfl⟩

theorem irs : ∀ rl subtract dr sra srb, Statement (.irs rl subtract dr sra srb) := by
  intro rl subtract dr sra srb
  cases rl <;> cases subtract <;>
    exact ⟨rfl, rfl, fun h => by first | rfl | cases h⟩

theorem sgr : ∀ dr sra srb, Statement (.sgr dr sra srb) :=
  fun _ _ _ => ⟨rfl, rfl, fun _ => rfl⟩

theorem asg : ∀ dr sra srb, Statement (.asg dr sra srb) :=
  fun _ _ _ => ⟨rfl, rfl, fun _ => rfl⟩

theorem sle : ∀ dr sra srb, Statement (.sle dr sra srb) :=
  fun _ _ _ => ⟨rfl, rfl, fun _ => rfl⟩

theorem asl : ∀ dr sra srb, Statement (.asl dr sra srb) :=
  fun _ _ _ => ⟨rfl, rfl, fun _ => rfl⟩

theorem seq : ∀ dr sra srb, Statement (.seq dr sra srb) :=
  fun _ _ _ => ⟨rfl, rfl, fun _ => rfl⟩

theorem ase : ∀ dr sra srb, Statement (.ase dr sra srb) :=
  fun _ _ _ => ⟨rfl, rfl, fun _ => rfl⟩

theorem sue : ∀ dr sra srb, Statement (.sue dr sra srb) :=
  fun _ _ _ => ⟨rfl, rfl, fun _ => rfl⟩

theorem asu : ∀ dr sra srb, Statement (.asu dr sra srb) :=
  fun _ _ _ => ⟨rfl, rfl, fun _ => rfl⟩

theorem frs : ∀ rl subtract p df sra srb, Statement (.frs rl subtract p df sra srb) := by
  intro rl subtract p df sra srb
  cases rl <;> cases subtract <;> cases p <;>
    exact ⟨rfl, rfl, fun h => by first | rfl | cases h⟩

theorem sgf : ∀ df sra srb, Statement (.sgf df sra srb) :=
  fun _ _ _ => ⟨rfl, rfl, fun _ => rfl⟩

theorem asgf : ∀ df sra srb, Statement (.asgf df sra srb) :=
  fun _ _ _ => ⟨rfl, rfl, fun _ => rfl⟩

theorem slf : ∀ df sra srb, Statement (.slf df sra srb) :=
  fun _ _ _ => ⟨rfl, rfl, fun _ => rfl⟩

theorem aslf : ∀ df sra srb, Statement (.aslf df sra srb) :=
  fun _ _ _ => ⟨rfl, rfl, fun _ => rfl⟩

theorem sef : ∀ df sra srb, Statement (.sef df sra srb) :=
  fun _ _ _ => ⟨rfl, rfl, fun _ => rfl⟩

theorem asef : ∀ df sra srb, Statement (.asef df sra srb) :=
  fun _ _ _ => ⟨rfl, rfl, fun _ => rfl⟩

theorem suf : ∀ df sra srb, Statement (.suf df sra srb) :=
  fun _ _ _ => ⟨rfl, rfl, fun _ => rfl⟩

theorem asuf : ∀ df sra srb, Statement (.asuf df sra srb) :=
  fun _ _ _ => ⟨rfl, rfl, fun _ => rfl⟩

theorem sgd : ∀ df sra srb, Statement (.sgd df sra srb) :=
  fun _ _ _ => ⟨rfl, rfl, fun _ => rfl⟩

theorem agfd : ∀ df sra srb, Statement (.agfd df sra srb) :=
  fun _ _ _ => ⟨rfl, rfl, fun _ => rfl⟩

theorem sld : ∀ df sra srb, Statement (.sld df sra srb) :=
  fun _ _ _ => ⟨rfl, rfl, fun _ => rfl⟩

theorem alfd : ∀ df sra srb, Statement (.alfd df sra srb) :=
  fun _ _ _ => ⟨rfl, rfl, fun _ => rfl⟩

theorem sed : ∀ df sra srb, Statement (.sed df sra srb) :=
  fun _ _ _ => ⟨rfl, rfl, fun _ => rfl⟩

theorem aefd : ∀ df sra srb, Statement (.aefd df sra srb) :=
  fun _ _ _ => ⟨rfl, rfl, fun _ => rfl⟩

theorem sud : ∀ df sra srb, Statement (.sud df sra srb) :=
  fun _ _ _ => ⟨rfl, rfl, fun _ => rfl⟩

theorem aufd : ∀ df sra srb, Statement (.aufd df sra srb) :=
  fun _ _ _ => ⟨rfl, rfl, fun _ => rfl⟩

theorem dlr : ∀ lf dr a, Statement (.dlr lf dr a) := by
  intro lf dr a
  cases lf <;>
    exact ⟨rfl, rfl, fun h => by first | rfl | cases h⟩

theorem dlrClear : ∀ dr a, Statement (.dlrClear dr a) :=
  fun _ _ => ⟨rfl, rfl, fun _ => rfl⟩

theorem xora : ∀ dr a, Statement (.xora dr a) :=
  fun _ _ => ⟨rfl, rfl, fun _ => rfl⟩

theorem anda : ∀ dr a, Statement (.anda dr a) :=
  fun _ _ => ⟨rfl, rfl, fun _ => rfl⟩

theorem ora : ∀ dr a, Statement (.ora dr a) :=
  fun _ _ => ⟨rfl, rfl, fun _ => rfl⟩

theorem dar : ∀ af dr a, Statement (.dar af dr a) := by
  intro af dr a
  cases af <;>
    exact ⟨rfl, rfl, fun h => by first | rfl | cases h⟩

theorem seta : ∀ dr a, Statement (.seta dr a) :=
  fun _ _ => ⟨rfl, rfl, fun _ => rfl⟩

theorem seca : ∀ dr a, Statement (.seca dr a) :=
  fun _ _ => ⟨rfl, rfl, fun _ => rfl⟩

theorem adda : ∀ dr a, Statement (.adda dr a) :=
  fun _ _ => ⟨rfl, rfl, fun _ => rfl⟩

theorem adca : ∀ dr a, Statement (.adca dr a) :=
  fun _ _ => ⟨rfl, rfl, fun _ => rfl⟩

theorem dsk : ∀ cm rl dr a, Statement (.dsk cm rl dr a) := by
  intro cm rl dr a
  cases cm <;> cases rl <;>
    exact ⟨rfl, rfl, fun h => by first | rfl | cases h⟩

theorem ddp : ∀ dr a, Statement (.ddp dr a) :=
  fun _ _ => ⟨rfl, rfl, fun _ => rfl⟩

theorem ddn : ∀ dr a, Statement (.ddn dr a) :=
  fun _ _ => ⟨rfl, rfl, fun _ => rfl⟩

theorem ddz : ∀ dr a, Statement (.ddz dr a) :=
  fun _ _ => ⟨rfl, rfl, fun _ => rfl⟩

theorem ddf : ∀ dr a, Statement (.ddf dr a) :=
  fun _ _ => ⟨rfl, rfl, fun _ => rfl⟩

theorem dsp : ∀ dr a, Statement (.dsp dr a) :=
  fun _ _ => ⟨rfl, rfl, fun _ => rfl⟩

theorem dsn : ∀ dr a, Statement (.dsn dr a) :=
  fun _ _ => ⟨rfl, rfl, fun _ => rfl⟩

theorem dsz : ∀ dr a, Statement (.dsz dr a) :=
  fun _ _ => ⟨rfl, rfl, fun _ => rfl⟩

theorem dsf : ∀ dr a, Statement (.dsf dr a) :=
  fun _ _ => ⟨rfl, rfl, fun _ => rfl⟩

end Sys2Proof.Laws.Canonical
end

