-- ==== Sys2Proof/Tests/Slice0.lean ====
section
/-! SUPPORT. Tests and witnesses. The tests take their words and results from the spec's worked examples
(41_inter_register.md, 42_argument.md, 40_memory_reference.md) and from spec/95_test_vectors.md; words
with no example there are written from the match and field columns of spec/opcode_table.json. Each
theorem `witness_<Name>` shows a concrete state and operands that meet the hypotheses of
Obligations.<Name>, each of its clauses included. -/

namespace Sys2Proof.Tests

open Sys2Proof Sys2Proof.Machine

/-! ## Well-formedness -/

/-- An ill-formed term for each check of `Instr.wellFormed`: a parent row at a setting that has a
mnemonic of its own (30_encoding.md R104). -/
theorem test_ill_formed_refused : ∀ i ∈ ([
    .rio true 1 2 .overflow, .shr true false .rotate 1 2 3, .shd false true .logical ⟨⟨false, 1⟩, true⟩
      ⟨⟨false, 2⟩, true⟩ 3, .lro false true .and 1 2 3, .lro false false .zero 1 2 3,
    .iroAddSub false false true 1 2 3, .iroMulDiv false 1 2 3,
    .fro .add .double ⟨false, 1⟩ ⟨⟨false, 2⟩, true⟩ ⟨⟨false, 3⟩, true⟩, .irs .ge true 1 2 3,
    .frs .ge true .single ⟨false, 1⟩ ⟨⟨false, 2⟩, false⟩ ⟨⟨false, 3⟩, false⟩, .dlr .xor 1 2,
    .dar .set 1 2, .dsk true .lt 1 2] : List Instr), i.wellFormed = false := by decide

/-- Neighbouring terms that the checks let pass. -/
theorem test_well_formed_accepted : ∀ i ∈ ([
    .rout 1 2 .overflow, .shr true true .rotate 1 2 3, .shr true false .rotateAlt 1 2 3,
    .shd false false .logical ⟨⟨false, 1⟩, true⟩ ⟨⟨false, 2⟩, true⟩ 3, .lro true true .and 1 2 3,
    .lro true false .zero 1 2 3, .iroAddSub false true true 1 2 3, .dsn 1 2] : List Instr),
    i.wellFormed = true := by decide

/-! ## Decoding -/

/-- Format MR, 30_encoding.md R91 and R97: I = 1, X = 9, B = 6, D = 0xABC, R = 37 (11 for the
modifying jumps). -/
theorem test_decode_memory_reference : ∀ p ∈ ([
    (0xCB065ABC, .rtj 37 ⟨true, 9, 6, 0xABC⟩),
    (0xCB0E5ABC, .min 37 ⟨true, 9, 6, 0xABC⟩),
    (0xCB125ABC, .crg 37 ⟨true, 9, 6, 0xABC⟩),
    (0xCB165ABC, .crl 37 ⟨true, 9, 6, 0xABC⟩),
    (0xCB1A5ABC, .cre 37 ⟨true, 9, 6, 0xABC⟩),
    (0xCB1E5ABC, .crd 37 ⟨true, 9, 6, 0xABC⟩),
    (0xCB225ABC, .jrp 37 ⟨true, 9, 6, 0xABC⟩),
    (0xCB265ABC, .jrn 37 ⟨true, 9, 6, 0xABC⟩),
    (0xCB2A5ABC, .jrz 37 ⟨true, 9, 6, 0xABC⟩),
    (0xCB2E5ABC, .jrf 37 ⟨true, 9, 6, 0xABC⟩),
    (0xCB425ABC, .add 37 ⟨true, 9, 6, 0xABC⟩),
    (0xCB465ABC, .sub 37 ⟨true, 9, 6, 0xABC⟩),
    (0xCB4A5ABC, .and 37 ⟨true, 9, 6, 0xABC⟩),
    (0xCB4E5ABC, .ldr 37 ⟨true, 9, 6, 0xABC⟩),
    (0xCB525ABC, .adm 37 ⟨true, 9, 6, 0xABC⟩),
    (0xCB5A5ABC, .xmr 37 ⟨true, 9, 6, 0xABC⟩),
    (0xCB5E5ABC, .str 37 ⟨true, 9, 6, 0xABC⟩),
    (0xCB625ABC, .mpy 37 ⟨true, 9, 6, 0xABC⟩),
    (0xCB665ABC, .div 37 ⟨true, 9, 6, 0xABC⟩),
    (0xCB30BABC, .jpm 11 ⟨true, 9, 6, 0xABC⟩),
    (0xCB34BABC, .jnm 11 ⟨true, 9, 6, 0xABC⟩),
    (0xCB38BABC, .jzm 11 ⟨true, 9, 6, 0xABC⟩),
    (0xCB3CBABC, .jfm 11 ⟨true, 9, 6, 0xABC⟩),
    (0x4B080ABC, .exc .memory 9 6 0xABC),
    (0x4B081ABC, .exc .immediate 9 6 0xABC),
    (0xCB565ABC, .fc21 37 ⟨true, 9, 6, 0xABC⟩)] : List (Word × Instr)),
    decodeWord p.1 = .ok p.2 := by decide

/-- The floating designators `X Y X X X X` of FC 26 to 31 (10_state.md R28): register 37 (upper, 5). -/
theorem test_decode_floating_memory : ∀ p ∈ ([
    (0x4B6B5ABC, .ldd ⟨⟨true, 5⟩, true⟩ ⟨false, 9, 6, 0xABC⟩),
    (0x4B6A5ABC, .ldd ⟨⟨true, 5⟩, false⟩ ⟨false, 9, 6, 0xABC⟩),
    (0x4B6F5ABC, .std ⟨⟨true, 5⟩, true⟩ ⟨false, 9, 6, 0xABC⟩),
    (0x4B6E5ABC, .std ⟨⟨true, 5⟩, false⟩ ⟨false, 9, 6, 0xABC⟩),
    (0x4B725ABC, .fad ⟨true, 5⟩ ⟨false, 9, 6, 0xABC⟩),
    (0x4B735ABC, .fadd ⟨true, 5⟩ ⟨false, 9, 6, 0xABC⟩),
    (0x4B765ABC, .fsb ⟨true, 5⟩ ⟨false, 9, 6, 0xABC⟩),
    (0x4B775ABC, .fsbd ⟨true, 5⟩ ⟨false, 9, 6, 0xABC⟩),
    (0x4B7A5ABC, .fmu ⟨true, 5⟩ ⟨false, 9, 6, 0xABC⟩),
    (0x4B7B5ABC, .fmud ⟨true, 5⟩ ⟨false, 9, 6, 0xABC⟩),
    (0x4B7E5ABC, .fdv ⟨true, 5⟩ ⟨false, 9, 6, 0xABC⟩),
    (0x4B7F5ABC, .fdvd ⟨true, 5⟩ ⟨false, 9, 6, 0xABC⟩)] : List (Word × Instr)),
    decodeWord p.1 = .ok p.2 := by decide

/-- 41_inter_register.md R201, R203, R204 and R242 (their examples). -/
theorem test_decode_monitor_io_reserved : ∀ p ∈ ([
    (0x0002ABCD, .stop 0x2ABCD),
    (0x08007002, .rin 7 0 .overflow),
    (0x08800103, .rout 0 4 .remainder),
    (0x5D03FFFF, .rfc11 10 0x3FFFF)] : List (Word × Instr)),
    decodeWord p.1 = .ok p.2 := by decide

/-- RFC 2 and 3 with L, R, SM of 30_encoding.md R104. -/
theorem test_decode_shifts : ∀ p ∈ ([
    (0x14003C93, .slr 3 50 19),
    (0x1C012C64, .slrd ⟨⟨false, 2⟩, true⟩ ⟨⟨true, 1⟩, true⟩ 36),
    (0x12003C93, .srr 3 50 19),
    (0x1A012C64, .srrd ⟨⟨false, 2⟩, true⟩ ⟨⟨true, 1⟩, true⟩ 36),
    (0x15003C93, .sla 3 50 19),
    (0x1D012C64, .slad ⟨⟨false, 2⟩, true⟩ ⟨⟨true, 1⟩, true⟩ 36),
    (0x13003C93, .sra 3 50 19),
    (0x1B012C64, .srad ⟨⟨false, 2⟩, true⟩ ⟨⟨true, 1⟩, true⟩ 36),
    (0x15803C93, .sll 3 50 19),
    (0x1D812C64, .slld ⟨⟨false, 2⟩, true⟩ ⟨⟨true, 1⟩, true⟩ 36),
    (0x13803C93, .srl 3 50 19),
    (0x1B812C64, .srld ⟨⟨false, 2⟩, true⟩ ⟨⟨true, 1⟩, true⟩ 36),
    (0x17803084, .shr true true .logical 3 2 4),
    (0x10803084, .shr false false .rotateAlt 3 2 4),
    (0x1E80287F, .shd true true .rotateAlt ⟨⟨false, 2⟩, false⟩ ⟨⟨true, 1⟩, false⟩ 63),
    (0x18012444, .shd false false .rotate ⟨⟨false, 2⟩, true⟩ ⟨⟨false, 1⟩, true⟩ 4)] : List (Word × Instr)),
    decodeWord p.1 = .ok p.2 := by decide

/-- The examples of 41_inter_register.md R219 to R229. -/
theorem test_decode_bits_and_converts : ∀ p ∈ ([
    (0x2600309F, .bst 3 2 31),
    (0x26803080, .bcm 3 2 0),
    (0x2E003084, .bcl 3 2 4),
    (0x36003084, .bsz 3 2 4),
    (0x3E00009F, .bso 0 2 31),
    (0x40003080, .fix 3 ⟨false, 2⟩),
    (0x44003080, .fir 3 ⟨false, 2⟩),
    (0x40003480, .fixd 3 ⟨false, 2⟩),
    (0x44003480, .fird 3 ⟨false, 2⟩),
    (0x49003080, .flo ⟨false, 3⟩ 2),
    (0x49013080, .flod ⟨false, 3⟩ 2)] : List (Word × Instr)),
    decodeWord p.1 = .ok p.2 := by decide

/-- The examples of 41_inter_register.md R231 to R240, and four settings with no mnemonic. -/
theorem test_decode_logic : ∀ p ∈ ([
    (0x50004083, .szr 4 2 3),
    (0x50804083, .rnd 4 2 3),
    (0x54804083, .rnda 4 2 3),
    (0x52804083, .rndb 4 2 3),
    (0x51004083, .rxo 4 2 3),
    (0x55004083, .rxoa 4 2 3),
    (0x53004083, .rxob 4 2 3),
    (0x51804083, .ror 4 2 3),
    (0x55804083, .rora 4 2 3),
    (0x53804083, .rorb 4 2 3),
    (0x57804083, .lro true true .or 4 2 3),
    (0x54004083, .lro true false .zero 4 2 3),
    (0x56804083, .lro true true .and 4 2 3),
    (0x57004083, .lro true true .xor 4 2 3)] : List (Word × Instr)),
    decodeWord p.1 = .ok p.2 := by decide

/-- The examples of 41_inter_register.md R254 to R267. -/
theorem test_decode_arithmetic : ∀ p ∈ ([
    (0x60004083, .rad 4 2 3),
    (0x60804083, .rsb 4 2 3),
    (0x610060C4, .rmu 6 3 4),
    (0x618060C4, .rdv 6 3 4),
    (0x64004083, .iroAddSub true false false 4 2 3),
    (0x62004083, .iroAddSub false true false 4 2 3),
    (0x66004083, .iroAddSub true true false 4 2 3),
    (0x64804083, .iroAddSub true false true 4 2 3),
    (0x68024093, .raf ⟨true, 4⟩ ⟨⟨false, 2⟩, false⟩ ⟨⟨false, 3⟩, true⟩),
    (0x68014493, .rafd ⟨false, 4⟩ ⟨⟨false, 2⟩, true⟩ ⟨⟨false, 3⟩, true⟩),
    (0x68824093, .rsf ⟨true, 4⟩ ⟨⟨false, 2⟩, false⟩ ⟨⟨false, 3⟩, true⟩),
    (0x68814493, .rsfd ⟨false, 4⟩ ⟨⟨false, 2⟩, true⟩ ⟨⟨false, 3⟩, true⟩),
    (0x69024093, .rmf ⟨true, 4⟩ ⟨⟨false, 2⟩, false⟩ ⟨⟨false, 3⟩, true⟩),
    (0x69014493, .rmfd ⟨false, 4⟩ ⟨⟨false, 2⟩, true⟩ ⟨⟨false, 3⟩, true⟩),
    (0x69824093, .rdf ⟨true, 4⟩ ⟨⟨false, 2⟩, false⟩ ⟨⟨false, 3⟩, true⟩),
    (0x69814493, .rdfd ⟨false, 4⟩ ⟨⟨false, 2⟩, true⟩ ⟨⟨false, 3⟩, true⟩)] : List (Word × Instr)),
    decodeWord p.1 = .ok p.2 := by decide

/-- RFC 14 and 15 with RL and AF of 30_encoding.md R104. -/
theorem test_decode_skips : ∀ p ∈ ([
    (0x70804083, .sgr 4 2 3),
    (0x78804083, .sgf ⟨false, 4⟩ ⟨⟨false, 2⟩, false⟩ ⟨⟨false, 3⟩, false⟩),
    (0x78814493, .sgd ⟨false, 4⟩ ⟨⟨false, 2⟩, true⟩ ⟨⟨false, 3⟩, true⟩),
    (0x70004083, .asg 4 2 3),
    (0x78004083, .asgf ⟨false, 4⟩ ⟨⟨false, 2⟩, false⟩ ⟨⟨false, 3⟩, false⟩),
    (0x78014493, .agfd ⟨false, 4⟩ ⟨⟨false, 2⟩, true⟩ ⟨⟨false, 3⟩, true⟩),
    (0x72804083, .sle 4 2 3),
    (0x7A804083, .slf ⟨false, 4⟩ ⟨⟨false, 2⟩, false⟩ ⟨⟨false, 3⟩, false⟩),
    (0x7A814493, .sld ⟨false, 4⟩ ⟨⟨false, 2⟩, true⟩ ⟨⟨false, 3⟩, true⟩),
    (0x72004083, .asl 4 2 3),
    (0x7A004083, .aslf ⟨false, 4⟩ ⟨⟨false, 2⟩, false⟩ ⟨⟨false, 3⟩, false⟩),
    (0x7A014493, .alfd ⟨false, 4⟩ ⟨⟨false, 2⟩, true⟩ ⟨⟨false, 3⟩, true⟩),
    (0x74804083, .seq 4 2 3),
    (0x7C804083, .sef ⟨false, 4⟩ ⟨⟨false, 2⟩, false⟩ ⟨⟨false, 3⟩, false⟩),
    (0x7C814493, .sed ⟨false, 4⟩ ⟨⟨false, 2⟩, true⟩ ⟨⟨false, 3⟩, true⟩),
    (0x74004083, .ase 4 2 3),
    (0x7C004083, .asef ⟨false, 4⟩ ⟨⟨false, 2⟩, false⟩ ⟨⟨false, 3⟩, false⟩),
    (0x7C014493, .aefd ⟨false, 4⟩ ⟨⟨false, 2⟩, true⟩ ⟨⟨false, 3⟩, true⟩),
    (0x76804083, .sue 4 2 3),
    (0x7E804083, .suf ⟨false, 4⟩ ⟨⟨false, 2⟩, false⟩ ⟨⟨false, 3⟩, false⟩),
    (0x7E814493, .sud ⟨false, 4⟩ ⟨⟨false, 2⟩, true⟩ ⟨⟨false, 3⟩, true⟩),
    (0x76004083, .asu 4 2 3),
    (0x7E004083, .asuf ⟨false, 4⟩ ⟨⟨false, 2⟩, false⟩ ⟨⟨false, 3⟩, false⟩),
    (0x7E014493, .aufd ⟨false, 4⟩ ⟨⟨false, 2⟩, true⟩ ⟨⟨false, 3⟩, true⟩)] : List (Word × Instr)),
    decodeWord p.1 = .ok p.2 := by decide

/-- The examples of 42_argument.md R301 to R318. -/
theorem test_decode_argument : ∀ p ∈ ([
    (0x82801234, .dlrClear 5 0x1234),
    (0x8281FFFF, .xora 5 0xFFFF),
    (0x82820FF0, .anda 5 0x0FF0),
    (0x82838001, .ora 5 0x8001),
    (0xA8800001, .seta 17 1),
    (0xA0810004, .seca 1 4),
    (0xA102000A, .adda 2 10),
    (0xA103000A, .adca 2 10),
    (0xC1000005, .ddp 2 5),
    (0xC1010005, .ddn 2 5),
    (0xC1020005, .ddz 2 5),
    (0xC1030005, .ddf 2 5),
    (0xE1000005, .dsp 2 5),
    (0xE1010005, .dsn 2 5),
    (0xE1020005, .dsz 2 5),
    (0xE1030005, .dsf 2 5)] : List (Word × Instr)),
    decodeWord p.1 = .ok p.2 := by decide

/-- One word for each way of 30_encoding.md R101 to be no instruction. -/
theorem test_decode_undefined : ∀ p ∈ ([
    (0x800800C8, .excIndirect), (0x000820C8, .excForm), (0x003100C8, .noModificationRegister),
    (0x00800000, .stopSubcode), (0x09000002, .rioSubcode), (0x08000001, .externalRegister),
    (0x08000004, .externalRegister), (0x14003020, .shiftCount), (0x25003080, .bitSubcode),
    (0x2E803080, .bitSubcode), (0x26003020, .bitNumber), (0x40803080, .convertSubcode),
    (0x48003080, .convertSubcode), (0x40003081, .convertLowBits), (0x65004083, .carryWithMultiply),
    (0x6A004083, .froSubcode), (0x71004083, .irsFunction), (0x79004083, .frsFunction)] :
      List (Word × Undefined)),
    decodeWord p.1 = .error p.2 := by decide

/-- The decoder on bytes: a word is its four bytes, most significant first, and the rest is left over. -/
theorem test_decode_bytes :
    decode [0x00, 0x04, 0x50, 0x28, 0x77] = .ok (.rtj 5 ⟨false, 0, 0, 40⟩, [0x77]) ∧
      decode [0x00, 0x04, 0x50] = .error .tooFewBytes ∧
      decodeTableWord 32 0xA8800001 = some (.seta 17 1) := by decide

/-! ## One step -/

/-- A running machine with general registers and memory words set. -/
def machine (pc : Word) (regs : List (Reg × Word)) (mem : List (Nat × Word)) : State :=
  regs.foldl (fun s p => s.setReg p.1 p.2)
    { State.reset with pc := pc, mem := mem.foldl (fun m p => m.writeWord p.1 p.2) [] }

/-- One step of one word at address 100: the registers and memory words before, and what is expected
after. -/
structure Case where
  word : Word
  regs : List (Reg × Word) := []
  mem : List (Nat × Word) := []
  out : List (Reg × Word) := []
  memOut : List (Nat × Word) := []
  pc : Word := 101
  also : State → Bool := fun _ => true

/-- The step gives a next state with what is expected. -/
def Case.holds (c : Case) : Bool :=
  match step (machine 100 c.regs ((100, c.word) :: c.mem)) with
  | .next t =>
    t.pc == c.pc && c.out.all (fun p => t.reg p.1 == p.2) &&
      c.memOut.all (fun p => t.mem.readWord p.1 == p.2) && c.also t
  | _ => false

/-- The examples of 40_memory_reference.md R138 and R145 to R152. -/
theorem test_jumps : ∀ c ∈ ([
    { word := 0x00045028, out := [(5, 101)], pc := 40 },
    { word := 0x01843002, regs := [(3, 300)], out := [(3, 101)], pc := 302 },
    { word := 0x002020C8, regs := [(2, 0)], pc := 200 },
    { word := 0x002020C8, regs := [(2, 0x80000000)] },
    { word := 0x002420C8, regs := [(2, 0x80000000)], pc := 200 },
    { word := 0x002400C8 },
    { word := 0x02A80000, regs := [(5, 36)], pc := 36 },
    { word := 0x002820C8, regs := [(2, 1)] },
    { word := 0x002C20C8, regs := [(2, 1)], pc := 200 },
    { word := 0x002C20C8 },
    { word := 0x00303032, regs := [(3, 0xFFFFFFFF), (19, 1)], out := [(3, 0)], pc := 50 },
    { word := 0x00303032, regs := [(3, 1), (19, 0xFFFFFFFE)], out := [(3, 0xFFFFFFFF)] },
    { word := 0x00341013, regs := [(1, 0xFFFFFFFC), (17, 1)], out := [(1, 0xFFFFFFFD)], pc := 19 },
    { word := 0x00341013, regs := [(1, 0xFFFFFFFF), (17, 1)], out := [(1, 0)] },
    { word := 0x0038203C, regs := [(2, 5), (18, 0xFFFFFFFB)], out := [(2, 0)], pc := 60 },
    { word := 0x0038203C, regs := [(2, 5), (18, 1)], out := [(2, 6)] },
    { word := 0x003C203C, regs := [(2, 3), (18, 0xFFFFFFFF)], out := [(2, 2)], pc := 60 },
    { word := 0x003C203C, regs := [(2, 1), (18, 0xFFFFFFFF)], out := [(2, 0)] }] : List Case),
    c.holds = true := by decide

/-- The examples of 40_memory_reference.md R140 to R144. -/
theorem test_memory_skips : ∀ c ∈ ([
    { word := 0x000C00C8, mem := [(200, 0xFFFFFFFE)], memOut := [(200, 0xFFFFFFFF)] },
    { word := 0x000C00C8, mem := [(200, 0xFFFFFFFF)], memOut := [(200, 0)], pc := 102 },
    { word := 0x0010412C, regs := [(4, 5)], mem := [(300, 0xFFFFFFFF)], pc := 102 },
    { word := 0x0010412C, regs := [(4, 0x80000000)] },
    { word := 0x0014412C, regs := [(4, 5)], mem := [(300, 0xFFFFFFFF)] },
    { word := 0x0014412C, regs := [(4, 0x80000000)], mem := [(300, 0x7FFFFFFF)], pc := 102 },
    { word := 0x0018412C, regs := [(4, 7)], mem := [(300, 7)], pc := 102 },
    { word := 0x0018412C, regs := [(4, 7)], mem := [(300, 0x80000007)] },
    { word := 0x001C412C, regs := [(4, 7)], mem := [(300, 7)] },
    { word := 0x001C412C, regs := [(4, 7)], mem := [(300, 0x80000007)], pc := 102 }] : List Case),
    c.holds = true := by decide

/-- The examples of 40_memory_reference.md R153 to R164. -/
theorem test_memory_integers : ∀ c ∈ ([
    { word := 0x00402068, regs := [(2, 10)], mem := [(104, 0xFFFFFFFD)], out := [(2, 7)] },
    { word := 0x00442068, regs := [(2, 3)], mem := [(104, 5)], out := [(2, 0xFFFFFFFE)] },
    { word := 0x00482068, regs := [(2, 0x0000FFFF)], mem := [(104, 0x00FF00FF)], out := [(2, 255)] },
    { word := 0x004C1046, mem := [(70, 0xA1000007)], out := [(1, 0xA1000007)] },
    { word := 0x005020C8, regs := [(2, 2)], mem := [(200, 40)], out := [(2, 2)], memOut := [(200,
       42)] },
    { word := 0x005820C8, regs := [(2, 1)], mem := [(200, 9)], out := [(2, 9)], memOut := [(200, 1)]
       },
    { word := 0x005C206E, regs := [(2, 10)], memOut := [(110, 10)] },
    { word := 0x00606078, regs := [(6, 0x000FFFF0)], mem := [(120, 0x0000EA60)], out := [(6,
       0xA5F15A00)], also := fun t => t.regOR == 14 },
    { word := 0x00606078, regs := [(6, 0xFFFFFFFE)], mem := [(120, 3)], out := [(6, 0xFFFFFFFA)],
       also := fun t => t.regOR == 0xFFFFFFFF },
    { word := 0x0064212C, regs := [(2, 0xFFFFFFF9)], mem := [(300, 2)], out := [(2, 0xFFFFFFFD)],
       also := fun t => t.regRR == 0xFFFFFFFF },
    { word := 0x0064212C, regs := [(2, 17)], mem := [(300, 0xFFFFFFFB)], out := [(2, 0xFFFFFFFD)],
       also := fun t => t.regRR == 2 },
    { word := 0x006911F4, mem := [(500, 0x40B00000), (501, 1)], out := [(1, 0x40B00000), (17, 1)] },
    { word := 0x006D1258, regs := [(1, 0x40B00000), (17, 1)], memOut := [(600, 0x40B00000), (601,
       1)] }] : List Case),
    c.holds = true := by decide

/-- The examples of 40_memory_reference.md R165 to R172. -/
theorem test_memory_floats : ∀ c ∈ ([
    { word := 0x007012BC, regs := [(1, 0x40400000)], mem := [(700, 0x40400000)], out := [(1,
       0x40800000)], also := fun t => t.isTainted 1 },
    { word := 0x007112BC, regs := [(1, 0x40400000)], mem := [(700, 0x40400000)], out := [(1,
       0x40800000), (17, 0)] },
    { word := 0x007412BC, regs := [(1, 0x40800000)], mem := [(700, 0x40400000)], out := [(1,
       0x40400000)] },
    { word := 0x007512BC, regs := [(1, 0x40800000)], mem := [(700, 0x40400000)], out := [(1,
       0x40400000), (17, 0)] },
    { word := 0x007812BC, regs := [(1, 0x40A00000)], mem := [(700, 0x40A00000)], out := [(1,
       0x41080000)] },
    { word := 0x007912BC, regs := [(1, 0x40A00000)], mem := [(700, 0x40A00000)], out := [(1,
       0x41080000), (17, 0)] },
    { word := 0x007C12BC, regs := [(1, 0x40400000)], mem := [(700, 0x40A00000)], out := [(1,
       0x3FD55555)] },
    { word := 0x007D12BC, regs := [(1, 0x40400000)], mem := [(700, 0x40A00000)], out := [(1,
       0x3FD55555), (17, 0x55555555)] }] : List Case),
    c.holds = true := by decide

/-- Vectors EA4 to EA9 of 95_test_vectors.md section 2.1. -/
theorem test_effective_address : ∀ c ∈ ([
    { word := 0x21CC2004, regs := [(3, 1000), (4, 2000)], mem := [(3004, 68)], out := [(2, 68)] },
    { word := 0x01CC2005, regs := [(3, 0xFFFFFFFF)], mem := [(4, 85)], out := [(2, 85)] },
    { word := 0x19CC2FFF, regs := [(3, 10)], mem := [(4115, 86)], out := [(2, 86)] },
    { word := 0x804C212C, mem := [(300, 0x00012345), (74565, 102)], out := [(2, 102)] },
    { word := 0x804C212C, regs := [(4, 5)], mem := [(200, 0x20000190), (300, 0x800000C8), (405,
       119)], out := [(2, 119)] },
    { word := 0x81CC2064, regs := [(3, 1000)], mem := [(1010, 136), (1100, 0x0180000A)], out := [(2,
       136)] }] : List Case),
    c.holds = true := by decide

/-- Vectors CT5 to CT10 of 95_test_vectors.md section 2.2. -/
theorem test_exc : ∀ c ∈ ([
    { word := 0x000800C8, regs := [(2, 0xFFFFFFFB)], mem := [(200, 0xA102000A)], out := [(2, 5)],
       also := fun t => t.ir == 0xA102000A },
    { word := 0x01881000, regs := [(3, 0xA1000007)], out := [(2, 7)] },
    { word := 0x000800C8, regs := [(2, 5)], mem := [(200, 0xC1020005)], pc := 102 },
    { word := 0x000800C8, mem := [(200, 0x00045028)], out := [(5, 101)], pc := 40 },
    { word := 0x000800C8, regs := [(2, 9)], mem := [(200, 0x005C2065)], memOut := [(101, 9)], also
       := fun t => t.nib == some ⟨101, 0⟩ },
    { word := 0x0008104D, pc := 100, also := fun t => t.run == .stopped (.monitor 77) }] : List Case),
    c.holds = true := by decide

/-- The examples of 41_inter_register.md R201, R203, R204. -/
theorem test_monitor_io : ∀ c ∈ ([
    { word := 0x0002ABCD, pc := 100, also := fun t => t.run == .stopped (.monitor 0x2ABCD) },
    { word := 0x08007002, regs := [(7, 5)], out := [(7, 0)] },
    { word := 0x08800103, regs := [(4, 4660)], also := fun t => t.regRR == 0x1234 && t.regOR == 0 }] : List Case),
    c.holds = true := by decide

/-- The examples of 41_inter_register.md R205 to R211. -/
theorem test_shifts : ∀ c ∈ ([
    { word := 0x17803084, regs := [(2, 0x12345678)], out := [(3, 0x12345670)] },
    { word := 0x14003084, regs := [(2, 0x80000001)], out := [(3, 24)] },
    { word := 0x12003084, regs := [(2, 0x80000001)], out := [(3, 0x18000000)] },
    { word := 0x15003084, regs := [(2, 0x80000001)], out := [(3, 16)] },
    { word := 0x13003084, regs := [(2, 0x80000001)], out := [(3, 0xF8000000)] },
    { word := 0x158030C4, regs := [(3, 0x0000FFFF)], out := [(3, 0x000FFFF0)] },
    { word := 0x13803084, regs := [(2, 0x80000001)], out := [(3, 0x08000000)] }] : List Case),
    c.holds = true := by decide

/-- The examples of 41_inter_register.md R212 to R218. -/
theorem test_double_shifts : ∀ c ∈ ([
    { word := 0x1B812464, regs := [(1, 0x80000001), (17, 0x40000002)], out := [(2, 0), (18,
       0x08000000)] },
    { word := 0x1C012444, regs := [(1, 0x80000001), (17, 0x40000002)], out := [(2, 20), (18, 40)] },
    { word := 0x1C012460, regs := [(1, 0x80000001), (17, 0x40000002)], out := [(2, 0x40000002), (18,
       0x80000001)] },
    { word := 0x1A012444, regs := [(1, 0x80000001), (17, 0x40000002)], out := [(2, 0x28000000), (18,
       0x14000000)] },
    { word := 0x1D012444, regs := [(1, 0x80000001), (17, 0x40000002)], out := [(2, 20), (18, 32)] },
    { word := 0x1B012444, regs := [(1, 0x80000001), (17, 0x40000002)], out := [(2, 0xF8000000), (18,
       0x14000000)] },
    { word := 0x1D812444, regs := [(1, 0x80000001), (17, 0x40000002)], out := [(2, 20), (18, 32)] },
    { word := 0x1B812444, regs := [(1, 0x80000001), (17, 0x40000002)], out := [(2, 0x08000000), (18,
       0x14000000)], also := fun t => t.isTainted 2 }] : List Case),
    c.holds = true := by decide

/-- The examples of 41_inter_register.md R219 to R229. -/
theorem test_bits_and_converts : ∀ c ∈ ([
    { word := 0x2600309F, regs := [(2, 1)], out := [(3, 0x80000001)] },
    { word := 0x26803080, regs := [(2, 1)], out := [(3, 0)] },
    { word := 0x2E003084, regs := [(2, 255)], out := [(3, 239)] },
    { word := 0x36003084, regs := [(2, 239)], out := [(3, 239)], pc := 102 },
    { word := 0x36003084, regs := [(2, 255)], out := [(3, 255)] },
    { word := 0x3E00009F, regs := [(2, 0x80000000)], pc := 102 },
    { word := 0x3E00009F, regs := [(2, 0x7FFFFFFF)] },
    { word := 0x40003080, regs := [(2, 0xC0B00000)], out := [(3, 0xFFFFFFFD)] },
    { word := 0x40003080, regs := [(2, 0x48000000)], out := [(3, 0x7FFFFFFF)], also := fun t =>
       t.ovf },
    { word := 0x44003080, regs := [(2, 0x40B00000)], out := [(3, 4)] },
    { word := 0x44003080, regs := [(2, 0xC0B00000)], out := [(3, 0xFFFFFFFC)] },
    { word := 0x40003480, regs := [(2, 0x40B00000)], out := [(3, 3)] },
    { word := 0x44003480, regs := [(2, 0xC0B00000)], out := [(3, 0xFFFFFFFC)] },
    { word := 0x49003080, regs := [(2, 5)], out := [(3, 0x40D00000)] },
    { word := 0x49003080, regs := [(2, 0x7FFFFFFF)], out := [(3, 0x47FFFFFF)] },
    { word := 0x49013080, regs := [(2, 0x7FFFFFFF)], out := [(3, 0x47FFFFFF), (19, 0xFF000000)] }] : List Case),
    c.holds = true := by decide

/-- The examples of 41_inter_register.md R231 to R240. -/
theorem test_logic : ∀ c ∈ ([
    { word := 0x50004083, regs := [(2, 0x0F0F00FF), (3, 0x00FF0FF0)], out := [(4, 0)] },
    { word := 0x50804083, regs := [(2, 0x0F0F00FF), (3, 0x00FF0FF0)], out := [(4, 0x000F00F0)] },
    { word := 0x54804083, regs := [(2, 0x0F0F00FF), (3, 0x00FF0FF0)], out := [(4, 0x00F00F00)] },
    { word := 0x52804083, regs := [(2, 0x0F0F00FF), (3, 0x00FF0FF0)], out := [(4, 0x0F00000F)] },
    { word := 0x51004083, regs := [(2, 0x0F0F00FF), (3, 0x00FF0FF0)], out := [(4, 0x0FF00F0F)] },
    { word := 0x55004083, regs := [(2, 0x0F0F00FF), (3, 0x00FF0FF0)], out := [(4, 0xF00FF0F0)] },
    { word := 0x53004083, regs := [(2, 0x0F0F00FF), (3, 0x00FF0FF0)], out := [(4, 0xF00FF0F0)] },
    { word := 0x51804083, regs := [(2, 0x0F0F00FF), (3, 0x00FF0FF0)], out := [(4, 0x0FFF0FFF)] },
    { word := 0x55804083, regs := [(2, 0x0F0F00FF), (3, 0x00FF0FF0)], out := [(4, 0xF0FFFFF0)] },
    { word := 0x53804083, regs := [(2, 0x0F0F00FF), (3, 0x00FF0FF0)], out := [(4, 0xFF0FF0FF)] }] : List Case),
    c.holds = true := by decide

/-- The examples of 41_inter_register.md R254 to R258; CB is 0 at the start. -/
theorem test_register_arithmetic : ∀ c ∈ ([
    { word := 0x64004083, regs := [(2, 0xFFFFFFFF), (3, 1)], out := [(4, 0)], also := fun t => t.cb
       },
    { word := 0x62004083, regs := [(2, 5), (3, 6)], out := [(4, 11)], also := fun t => !t.cb },
    { word := 0x64804083, regs := [(2, 3), (3, 5)], out := [(4, 0xFFFFFFFE)], also := fun t => t.cb
       },
    { word := 0x64804083, regs := [(2, 5), (3, 3)], out := [(4, 2)], also := fun t => !t.cb },
    { word := 0x60004083, regs := [(2, 0x7FFFFFFF), (3, 1)], out := [(4, 0x80000000)] },
    { word := 0x60804083, regs := [(2, 3), (3, 5)], out := [(4, 0xFFFFFFFE)] },
    { word := 0x610060C4, regs := [(3, 0x000FFFF0), (4, 0x0000EA60)], out := [(6, 0xA5F15A00)], also
       := fun t => t.regOR == 14 },
    { word := 0x618060C4, regs := [(3, 17), (4, 0xFFFFFFFB)], out := [(6, 0xFFFFFFFD)], also := fun
       t => t.regRR == 2 }] : List Case),
    c.holds = true := by decide

/-- The examples of 41_inter_register.md R260 to R267. -/
theorem test_register_floats : ∀ c ∈ ([
    { word := 0x68004083, regs := [(2, 0x40A00000), (3, 0x40800000)], out := [(4, 0x40D00000)], also
       := fun t => t.isTainted 4 },
    { word := 0x68804083, regs := [(2, 0x40A00000), (3, 0x40800000)], out := [(4, 0x40400000)], also
       := fun t => t.isTainted 4 },
    { word := 0x69004083, regs := [(2, 0x40A00000), (3, 0x40800000)], out := [(4, 0x40E00000)], also
       := fun t => t.isTainted 4 },
    { word := 0x69804083, regs := [(2, 0x40A00000), (3, 0x40800000)], out := [(4, 0x40600000)], also
       := fun t => t.isTainted 4 },
    { word := 0x68014493, regs := [(2, 0x40A00000), (3, 0x40800000)], out := [(4, 0x40D00000), (20,
       0)] },
    { word := 0x68814493, regs := [(2, 0x40A00000), (3, 0x40800000)], out := [(4, 0x40400000), (20,
       0)] },
    { word := 0x69014493, regs := [(2, 0x40A00000), (3, 0x40800000)], out := [(4, 0x40E00000), (20,
       0)] },
    { word := 0x69814493, regs := [(2, 0x40A00000), (3, 0x40800000)], out := [(4, 0x40600000), (20,
       0)] },
    { word := 0x69814493, regs := [(2, 0x40400000), (3, 0x40A00000)], out := [(4, 0x3FD55555), (20,
       0x55555555)] }] : List Case),
    c.holds = true := by decide

/-- The examples of 41_inter_register.md R269 to R276, and vector of R269 with DR = 0. -/
theorem test_integer_skips : ∀ c ∈ ([
    { word := 0x70804083, regs := [(2, 5), (3, 5)], out := [(4, 0)], pc := 102 },
    { word := 0x70004083, regs := [(2, 5), (3, 5)], out := [(4, 10)], pc := 102 },
    { word := 0x72804083, regs := [(2, 5), (3, 5)], out := [(4, 0)] },
    { word := 0x72004083, regs := [(2, 5), (3, 5)], out := [(4, 10)] },
    { word := 0x74804083, regs := [(2, 5), (3, 5)], out := [(4, 0)], pc := 102 },
    { word := 0x74004083, regs := [(2, 5), (3, 5)], out := [(4, 10)] },
    { word := 0x76804083, regs := [(2, 5), (3, 5)], out := [(4, 0)] },
    { word := 0x76004083, regs := [(2, 5), (3, 5)], out := [(4, 10)], pc := 102 },
    { word := 0x70800083, regs := [(2, 0x80000000), (3, 1)], pc := 102 }] : List Case),
    c.holds = true := by decide

/-- The examples of 41_inter_register.md R278 to R293, the underflow case of R282 among them. -/
theorem test_float_skips : ∀ c ∈ ([
    { word := 0x78804083, regs := [(2, 0x40800000), (3, 0x40A00000)], out := [(4, 0xC0400000)] },
    { word := 0x78004083, regs := [(2, 0x40800000), (3, 0x40A00000)], out := [(4, 0x40D00000)], pc
       := 102 },
    { word := 0x7A804083, regs := [(2, 0x40800000), (3, 0x40A00000)], out := [(4, 0xC0400000)], pc
       := 102 },
    { word := 0x7A004083, regs := [(2, 0x40800000), (3, 0x40A00000)], out := [(4, 0x40D00000)] },
    { word := 0x7C804083, regs := [(2, 0x40800000), (3, 0x40A00000)], out := [(4, 0xC0400000)] },
    { word := 0x7C004083, regs := [(2, 0x40800000), (3, 0x40A00000)], out := [(4, 0x40D00000)] },
    { word := 0x7E804083, regs := [(2, 0x40800000), (3, 0x40A00000)], out := [(4, 0xC0400000)], pc
       := 102 },
    { word := 0x7E004083, regs := [(2, 0x40800000), (3, 0x40A00000)], out := [(4, 0x40D00000)], pc
       := 102 },
    { word := 0x78814493, regs := [(2, 0x40A00000), (3, 0x40A00000)], out := [(4, 0), (20, 0)], pc
       := 102 },
    { word := 0x78014493, regs := [(2, 0x40A00000), (3, 0x40A00000)], out := [(4, 0x40E00000), (20,
       0)], pc := 102 },
    { word := 0x7A814493, regs := [(2, 0x40A00000), (3, 0x40A00000)], out := [(4, 0), (20, 0)] },
    { word := 0x7A014493, regs := [(2, 0x40A00000), (3, 0x40A00000)], out := [(4, 0x40E00000), (20,
       0)] },
    { word := 0x7C814493, regs := [(2, 0x40A00000), (3, 0x40A00000)], out := [(4, 0), (20, 0)], pc
       := 102 },
    { word := 0x7C014493, regs := [(2, 0x40A00000), (3, 0x40A00000)], out := [(4, 0x40E00000), (20,
       0)] },
    { word := 0x7E814493, regs := [(2, 0x40A00000), (3, 0x40A00000)], out := [(4, 0), (20, 0)] },
    { word := 0x7E014493, regs := [(2, 0x40A00000), (3, 0x40A00000)], out := [(4, 0x40E00000), (20,
       0)], pc := 102 },
    { word := 0x7C804083, regs := [(2, 0x00400001), (3, 0x00400000)], out := [(4, 0)], pc := 102,
       also := fun t => t.unf && !t.ovf }] : List Case),
    c.holds = true := by decide

/-- The examples of 42_argument.md R301 to R309. -/
theorem test_argument : ∀ c ∈ ([
    { word := 0x82801234, regs := [(5, 0xFFFFFFFF)], out := [(5, 0)] },
    { word := 0x8281FFFF, regs := [(5, 0x12345678)], out := [(5, 0x1234A987)] },
    { word := 0x82820FF0, regs := [(5, 0x12345678)], out := [(5, 1648)] },
    { word := 0x82838001, regs := [(5, 0x12340000)], out := [(5, 0x12348001)] },
    { word := 0xA8800001, out := [(17, 1)] },
    { word := 0xA180FFFF, regs := [(3, 0xFFFFFFFF)], out := [(3, 0x0000FFFF)] },
    { word := 0xA081FFFF, out := [(1, 0xFFFF0001)] },
    { word := 0xA102000A, regs := [(2, 0xFFFFFFFB)], out := [(2, 5)] },
    { word := 0xA103000A, regs := [(2, 3)], out := [(2, 0xFFFFFFF9)] }] : List Case),
    c.holds = true := by decide

/-- The examples of 42_argument.md R311 to R318. -/
theorem test_argument_skips : ∀ c ∈ ([
    { word := 0xC1000005, regs := [(2, 5)], pc := 102 },
    { word := 0xC1000005, regs := [(2, 0xFFFFFFFB)] },
    { word := 0xC1010005, regs := [(2, 5)] },
    { word := 0xC1010005, regs := [(2, 0xFFFFFFFB)], pc := 102 },
    { word := 0xC1020005, regs := [(2, 5)], pc := 102 },
    { word := 0xC1020005, regs := [(2, 0xFFFFFFFB)] },
    { word := 0xC1030005, regs := [(2, 5)] },
    { word := 0xC1030005, regs := [(2, 0xFFFFFFFB)], pc := 102 },
    { word := 0xE1000005, regs := [(2, 5)], pc := 102 },
    { word := 0xE1000005, regs := [(2, 0xFFFFFFFB)], pc := 102 },
    { word := 0xE1010005, regs := [(2, 5)] },
    { word := 0xE1010005, regs := [(2, 0xFFFFFFFB)] },
    { word := 0xE1020005, regs := [(2, 5)] },
    { word := 0xE1020005, regs := [(2, 0xFFFFFFFB)], pc := 102 },
    { word := 0xE1030005, regs := [(2, 5)], pc := 102 },
    { word := 0xE1030005, regs := [(2, 0xFFFFFFFB)] },
    { word := 0xC100FFFF, regs := [(2, 0xFFFFFFFF)] }] : List Case),
    c.holds = true := by decide

/-! ## Witnesses -/

/-- A meaning answers a next state that passes a check. -/
def answers (o : Host.Outcome State Fault Refusal) (p : State → Bool) : Bool :=
  match o with
  | .next t => p t
  | _ => false

theorem exists_next {o : Host.Outcome State Fault Refusal} {p : State → Bool}
    (h : answers o p = true) : ∃ t, o = .next t ∧ p t = true := by
  match o, h with
  | .next t, h => exact ⟨t, rfl, h⟩

/-- The address fields of a direct reference to a displacement, without base or index. -/
def direct (d : BitVec 12) : MemRef := ⟨false, 0, 0, d⟩

/-- Registers of both signs, an address just beyond memory in GR_4 and the last one in GR_5; an indirect
address word at 300, one that leads to itself at 301, one with bit 20 set at 302. -/
def sample : State :=
  machine 100 [(1, 5), (2, 0x80000000), (3, 0xFFFFFFFF), (4, 0x00100000), (5, 0x000FFFFF), (6, 0x7FFFFFFF)]
    [(100, 0x005C1065), (200, 7), (201, 0xFFFFFFFF), (202, 0x80000000), (203, 0xA1000007), (204, 0x000800C8),
      (205, 0x00800000), (300, 0x000000C8), (301, 0x8000012D), (302, 0x00100190)]

/-- The same with GR_3 tainted. -/
def sampleTainted : State := { sample with taint := sample.taint.set 3 true }

/-- The same with a monitor call on integer overflow, and register 0 read back when tested. -/
def sampleMonitor : State :=
  { sample with params := { sample.params with overflowAction := .monitorCall, r0DestTest := .reread } }

/-- The same with a memory that fills the address space. -/
def sampleFull : State := { sample with params := { sample.params with memWords := 2 ^ 32 } }

/-- The same with an old word buffered at P. -/
def sampleBuffered : State := { sample with nib := some ⟨100, 0xA8800001⟩ }

/-- The chain of 16 levels of vector EA10. -/
def sampleChain : State :=
  machine 100 [] ((List.range 15).map (fun k => (200 + k, 0x800000C9 + BitVec.ofNat 32 k)) ++ [(215, 900)])

theorem witness_ResetState : (5 : Reg) ≠ 0 := by decide

theorem witness_StepKeepsInv :
    (MachineInv sample ∧ ∃ t, step sample = .next t ∧ t.nib.isSome) ∧
      MachineInv sampleBuffered ∧ ∃ t, step sampleBuffered = .next t ∧ t.nib.isNone := by
  refine ⟨⟨⟨by decide, by decide, by decide, by decide, by decide, by decide, ?_⟩,
    exists_next (by decide)⟩, ⟨by decide, by decide, by decide, by decide, by decide, by decide, ?_⟩,
    exists_next (by decide)⟩
  · exact fun b h => absurd (h.symm.trans (by decide : sample.nib = none)) (by simp)
  · exact fun b h => by cases h; rfl

theorem witness_RegisterZero : (0 : Reg) ≠ 16 := by decide

/-- Both words inside; the second word outside; the addresses around the top of the address space. -/
theorem witness_DoubleWordOrder :
    sample.mem.wf = true ∧ (sample.store2 200 1 2).isOk ∧ (sample.load2 0x000FFFFE).isOk ∧
      ¬(sample.store2 0x000FFFFF 1 2).isOk ∧ ¬(sample.load2 0x000FFFFF).isOk ∧
      sampleFull.mem.wf = true ∧ (sampleFull.store2 0xFFFFFFFF 1 2).isOk ∧
      (sampleFull.load2 0xFFFFFFFF).isOk := by decide

theorem witness_DecodeEncode : ∀ i ∈ ([
    .exc .immediate 15 15 0xFFF, .jfm 15 ⟨true, 15, 15, 0xFFF⟩, .std ⟨⟨true, 15⟩, false⟩ (direct 0),
    .rfc11 15 0x3FFFF, .shr true true .logical 63 63 31, .lro true true .or 63 63 63,
    .iroAddSub true true true 63 63 63, .dsf 63 0xFFFF] : List Instr), i.wellFormed = true := by decide

theorem witness_EncodeDecode :
    decodeWord 0 = .ok (.stop 0) ∧ decodeWord 0xFF83FFFF = .ok (.dsf 63 0xFFFF) := by decide

/-- The buffer empty, the last word of memory fetched, and an old word buffered. -/
theorem witness_StepRunsDecoded :
    (sample.run = .running ∧ sample.nib = none ∧ sample.pc.toNat < sample.params.memWords ∧
      decode [sample.mem.readByte 400, sample.mem.readByte 401, sample.mem.readByte 402,
        sample.mem.readByte 403] = .ok (.str 1 (direct 101), [])) ∧
    (let s := { sample with pc := 0x000FFFFF };
      s.nib = none ∧ s.pc.toNat < s.params.memWords ∧
        decode [s.mem.readByte 0x3FFFFC, s.mem.readByte 0x3FFFFD, s.mem.readByte 0x3FFFFE,
          s.mem.readByte 0x3FFFFF] = .ok (.stop 0, [])) ∧
    sampleBuffered.run = .running ∧ sampleBuffered.nib = some ⟨100, 0xA8800001⟩ ∧
      sampleBuffered.pc = 100 ∧ decodeWord 0xA8800001 = .ok (.seta 17 1) := by decide

/-- A stopped CPU; a fetched word that is no instruction; a fetch at MEM_WORDS. -/
theorem witness_StepStops :
    ({ sample with run := .stopped (.monitor 3) } : State).run = .stopped (.monitor 3) ∧
    (let s := { sample with pc := 205 };
      s.run = .running ∧ s.fetch = .ok 0x00800000 ∧ decodeWord 0x00800000 = .error .stopSubcode) ∧
    (let s := { sample with pc := 0x00100000 };
      s.run = .running ∧ s.nib = none ∧ s.params.memWords ≤ s.pc.toNat) := by decide

theorem witness_FetchWordRuns :
    sample.mem.wf = true ∧ sample.pc.toNat < sample.params.memWords ∧
      decodeTableWord 32 0xA8800001 = some (.seta 17 1) ∧ State.reset.mem.wf = true ∧
      State.reset.pc.toNat < State.reset.params.memWords := by decide

/-- The word at P + 1 written by STR, and by each half of STD; another word written; MIN that skips over
the word it writes. -/
theorem witness_NextInstructionBuffer :
    sample.nib = none ∧ sample.effAddr (direct 100) = .ok 100 ∧ sample.effAddr (direct 101) = .ok 101 ∧
    memRef (.str 1 (direct 101)) = some (direct 101) ∧
    (∃ t, exec (.str 1 (direct 101)) sample = .next t ∧
      (t.pc == 101 && decide (101 ∈ writtenWords (.str 1 (direct 101)) 101)) = true) ∧
    (∃ t, exec (.std ⟨⟨false, 1⟩, true⟩ (direct 100)) sample = .next t ∧
      (t.pc == 101 && decide (101 ∈ writtenWords (.std ⟨⟨false, 1⟩, true⟩ (direct 100)) 100)) = true) ∧
    (∃ t, exec (.str 1 (direct 100)) sample = .next t ∧
      (!decide (101 ∈ writtenWords (.str 1 (direct 100)) 100)) = true) ∧
    ∃ t, exec (.min 3 (direct 101)) sample = .next t ∧ (t.pc == 102) = true :=
  ⟨by decide, by decide, by decide, by decide, exists_next (by decide), exists_next (by decide),
    exists_next (by decide), exists_next (by decide)⟩

/-- A direct address that wraps; a chain of one level and of sixteen; a chain too long. -/
theorem witness_EffAddrMeaning :
    sample.effAddr ⟨false, 3, 1, 0xFFF⟩ = .ok 0x1003 ∧ sample.effAddr ⟨true, 0, 0, 300⟩ = .ok 200 ∧
      sampleChain.effAddr ⟨true, 0, 0, 200⟩ = .ok 900 ∧
      sample.effAddr ⟨true, 0, 0, 301⟩ = .error (.refusal .indirectTooDeep) ∧
      sample.isTainted 3 = false := by decide

/-- The indirect address word at 301 leads to itself at every level. -/
theorem sample_reach_self (n : Nat) : IndirectReach sample n 301 301 := by
  induction n with
  | zero => exact .here
  | succ n ih =>
    exact indirectReach_cons (by decide) (by decide) (by decide) (by decide) (by decide) (by decide) ih

/-- The same with GR_3 tainted and other memory words: an indirect address word at 301 that goes on to
GR_4, to GR_5 or to a displacement, and what stands there. -/
def sampleWith (words : List (Nat × Word)) : State :=
  { sampleTainted with mem := words.foldl (fun m p => m.writeWord p.1 p.2) sampleTainted.mem }

/-- Each clause: a tainted base and a tainted index of the instruction word; a chain of 16 levels; at the
first level (n = 0) and the second (n = 1) an indirect address word at MEM_WORDS, one with bits 22-20
set in the last word of memory, one with a tainted base, one with a tainted index; one that leads to
itself. -/
theorem witness_EffAddrStops :
    (sampleTainted.isTainted 3 = true ∧ sampleTainted.isTainted 0 = false) ∧
    IndirectReach sample 16 301 301 ∧
    IndirectReach sample 0 0x100000 0x100000 ∧ sample.params.memWords ≤ (0x100000 : Word).toNat ∧
    IndirectReach (sampleWith [(301, 0x82000000)]) 1 301 0x100000 ∧
    (let s := sampleWith [(301, 0x82800000), (0xFFFFF, 0x00700000)];
      IndirectReach s 1 301 0xFFFFF ∧ (0xFFFFF : Word).toNat < s.params.memWords ∧
        (s.mem.readWord 0xFFFFF).extractLsb' 20 3 ≠ 0) ∧
    (let s := sampleWith [(301, 0x8000012E), (302, 0x01800000)];
      IndirectReach s 1 301 302 ∧ (s.mem.readWord 302).extractLsb' 20 3 = 0 ∧
        s.isTainted ((s.mem.readWord 302).extractLsb' 23 4) = true) ∧
    (let s := sampleWith [(301, 0x18000000)];
      (s.mem.readWord 301).extractLsb' 20 3 = 0 ∧ s.isTainted ((s.mem.readWord 301).extractLsb' 23 4) = false ∧
        s.isTainted ((s.mem.readWord 301).extractLsb' 27 4) = true) ∧
    (let w := sample.mem.readWord 301;
      w.extractLsb' 20 3 = 0 ∧ w.getLsbD 31 = true ∧ sample.isTainted (w.extractLsb' 23 4) = false ∧
        sample.isTainted (w.extractLsb' 27 4) = false ∧
        sample.reg (lowReg (w.extractLsb' 23 4)) + sample.reg (lowReg (w.extractLsb' 27 4)) +
          (w.extractLsb' 0 20).setWidth 32 = 301) :=
  ⟨by decide, sample_reach_self 16, .here, by decide,
    indirectReach_cons (by decide) (by decide) (by decide) (by decide) (by decide) (by decide)
      .here,
    ⟨indirectReach_cons (by decide) (by decide) (by decide) (by decide) (by decide) (by decide)
      .here, by decide⟩,
    ⟨indirectReach_cons (by decide) (by decide) (by decide) (by decide) (by decide) (by decide)
      .here, by decide⟩,
    by decide, by decide⟩

theorem witness_AddressStopsFirst :
    memRef (.jpm 3 ⟨false, 0, 3, 1⟩) = some ⟨false, 0, 3, 1⟩ ∧
      sampleTainted.effAddr ⟨false, 0, 3, 1⟩ = .error (.refusal (.taintedAddress 3)) ∧
      memRef (.str 1 ⟨true, 0, 4, 0⟩) = some ⟨true, 0, 4, 0⟩ ∧
      sample.effAddr ⟨true, 0, 4, 0⟩ = .error (.fault (.addressOutOfRange .indirect 0x100000)) := by decide

/-- The first word at MEM_WORDS, for a read and a write; the second word of a double word there. -/
theorem witness_OperandOutside :
    operandAccess (.add 1 ⟨false, 0, 4, 0⟩) = some .read ∧
    operandAccess (.str 1 ⟨false, 0, 4, 0⟩) = some .write ∧
    sample.effAddr ⟨false, 0, 4, 0⟩ = .ok 0x100000 ∧ sample.params.memWords ≤ (0x100000 : Word).toNat ∧
    memRef (.std ⟨⟨false, 1⟩, true⟩ ⟨false, 0, 5, 0⟩) = some ⟨false, 0, 5, 0⟩ ∧
    operandAccess (.std ⟨⟨false, 1⟩, true⟩ ⟨false, 0, 5, 0⟩) = some .write ∧
    doubleOperand (.std ⟨⟨false, 1⟩, true⟩ ⟨false, 0, 5, 0⟩) = true ∧
    sample.effAddr ⟨false, 0, 5, 0⟩ = .ok 0xFFFFF ∧ (0xFFFFF : Word).toNat < sample.params.memWords ∧
    sample.params.memWords ≤ (0xFFFFF + 1 : Word).toNat := by decide

/-- A division of registers by zero; a single operand in the last word; a double operand in the last two
words; a jump to an address outside memory, which it does not access. -/
theorem witness_OrdinaryDataCompletes :
    registerOnly (.rdv 1 2 0) = true ∧
    (memRef (.div 1 ⟨false, 0, 5, 0⟩) = some ⟨false, 0, 5, 0⟩ ∧
      sample.effAddr ⟨false, 0, 5, 0⟩ = .ok 0xFFFFF ∧ (0xFFFFF : Word).toNat < sample.params.memWords ∧
      doubleOperand (.div 1 ⟨false, 0, 5, 0⟩) = false) ∧
    (sample.effAddr ⟨false, 3, 5, 0⟩ = .ok 0xFFFFE ∧ doubleOperand (.fadd ⟨false, 1⟩ (direct 0)) = true ∧
      (0xFFFFE + 1 : Word).toNat < sample.params.memWords) ∧
    operandAccess (.jrz 0 ⟨false, 0, 4, 0⟩) = none ∧ sample.effAddr ⟨false, 0, 4, 0⟩ = .ok 0x100000 := by
  decide

theorem witness_RtjResult :
    sample.effAddr ⟨false, 0, 1, 35⟩ = .ok 40 ∧ ∃ t, exec (.rtj 1 ⟨false, 0, 1, 35⟩) sample = .next t ∧
      (t.reg 1 == 101 && t.pc == 40) = true := ⟨by decide, exists_next (by decide)⟩

/-- Each condition holding and not holding. -/
theorem witness_JumpResult :
    sample.effAddr (direct 40) = .ok 40 ∧
      (sample.reg 1).getLsbD 31 = false ∧ (sample.reg 2).getLsbD 31 = true ∧ sample.reg 0 = 0 ∧
      (sample.reg 0).getLsbD 31 = false ∧ sample.reg 1 ≠ 0 := by decide

/-- Sums of both signs and zero; R = 0 under both settings of r0_dest_test; a sum out of range with the
monitor call on and off. -/
theorem witness_ModifyJumpResult :
    sample.effAddr (direct 40) = .ok 40 ∧
    (let s := sample.setReg 17 0xFFFFFFFB;
      s.reg (lowReg 1) + s.reg (modReg 1) = 0) ∧
    (sample.reg (lowReg 1) + sample.reg (modReg 1)).toInt = 5 ∧
    (sample.reg (lowReg 3) + sample.reg (modReg 3)).toInt = -1 ∧
    sample.params.r0DestTest = .result ∧ sampleMonitor.params.r0DestTest = .reread ∧
    sampleMonitor.effAddr (direct 40) = .ok 40 ∧
    (let s := sampleMonitor.setReg 22 1;
      s.params.overflowAction = .monitorCall ∧
        2 ^ 31 ≤ (s.reg (lowReg 6)).toInt + (s.reg (modReg 6)).toInt) := by decide

/-- An operand above, below and equal to the register. -/
theorem witness_CompareResult :
    sample.effAddr (direct 200) = .ok 200 ∧ (200 : Word).toNat < sample.params.memWords ∧
      sample.effAddr ⟨false, 0, 5, 0⟩ = .ok 0xFFFFF ∧ (0xFFFFF : Word).toNat < sample.params.memWords ∧
      (sample.reg 1).toInt < (sample.mem.readWord 200).toInt ∧
      (sample.mem.readWord 201).toInt ≤ (sample.reg 1).toInt ∧
      sample.reg 3 = sample.mem.readWord 201 ∧ sample.reg 1 ≠ sample.mem.readWord 200 := by decide

/-- A stored word that is zero and one that is not; the word at P + 1; overflow with the monitor call. -/
theorem witness_MinResult :
    sample.mem.wf = true ∧ sample.effAddr (direct 201) = .ok 201 ∧ sample.effAddr (direct 101) = .ok 101 ∧
      (201 : Word).toNat < sample.params.memWords ∧ (101 : Word).toNat < sample.params.memWords ∧
      sample.mem.readWord 201 + sample.reg 0 + 1 = 0 ∧ sample.mem.readWord 101 + sample.reg 1 + 1 ≠ 0 ∧
      sampleMonitor.mem.wf = true ∧ sampleMonitor.effAddr (direct 200) = .ok 200 ∧
      sampleMonitor.params.overflowAction = .monitorCall ∧
      2 ^ 31 ≤ (sampleMonitor.mem.readWord 200).toInt + (sampleMonitor.reg 6).toInt + 1 := by decide

/-- Sums and differences in range and out of range, with and without the monitor call. -/
theorem witness_LoadResult :
    sample.effAddr (direct 200) = .ok 200 ∧ (200 : Word).toNat < sample.params.memWords ∧
      (sample.reg 1).toInt + (sample.mem.readWord 200).toInt = 12 ∧
      sampleMonitor.effAddr (direct 200) = .ok 200 ∧
      sampleMonitor.params.overflowAction = .monitorCall ∧
      2 ^ 31 ≤ (sampleMonitor.reg 6).toInt + (sampleMonitor.mem.readWord 200).toInt ∧
      (sampleMonitor.reg 2).toInt - (sampleMonitor.mem.readWord 200).toInt < -2 ^ 31 := by decide

/-- A word elsewhere, the word at P + 1, and overflow with the monitor call. -/
theorem witness_StoreResult :
    sample.mem.wf = true ∧ sample.effAddr (direct 200) = .ok 200 ∧ sample.effAddr (direct 101) = .ok 101 ∧
      (200 : Word).toNat < sample.params.memWords ∧ (101 : Word).toNat < sample.params.memWords ∧
      sampleMonitor.mem.wf = true ∧ sampleMonitor.effAddr (direct 200) = .ok 200 ∧
      sampleMonitor.params.overflowAction = .monitorCall ∧
      2 ^ 31 ≤ (sampleMonitor.mem.readWord 200).toInt + (sampleMonitor.reg 6).toInt := by decide

/-- A product in range and one out of range with the monitor call. -/
theorem witness_MpyResult :
    sample.effAddr (direct 200) = .ok 200 ∧ (200 : Word).toNat < sample.params.memWords ∧
      (sample.reg 3).toInt * (sample.mem.readWord 200).toInt = -7 ∧
      sampleMonitor.effAddr (direct 200) = .ok 200 ∧
      sampleMonitor.params.overflowAction = .monitorCall ∧
      (sampleMonitor.reg 2).toInt * (sampleMonitor.mem.readWord 200).toInt < -2 ^ 31 := by decide

/-- An ordinary divisor, a zero divisor, and -2^31 / -1 with the monitor call. -/
theorem witness_DivResult :
    sample.effAddr (direct 200) = .ok 200 ∧ (200 : Word).toNat < sample.params.memWords ∧
      sample.mem.readWord 200 ≠ 0 ∧ ¬(sample.reg 2 = 0x80000000 ∧ sample.mem.readWord 200 = 0xFFFFFFFF) ∧
      sample.effAddr (direct 210) = .ok 210 ∧ sample.mem.readWord 210 = 0 ∧
      sampleMonitor.effAddr (direct 201) = .ok 201 ∧ sampleMonitor.reg 2 = 0x80000000 ∧
      sampleMonitor.mem.readWord 201 = 0xFFFFFFFF ∧
      sampleMonitor.params.overflowAction = .monitorCall := by decide

/-- The last two words of memory; the word at P + 1 in either half; the top of the address space. -/
theorem witness_DoubleMoveResult :
    sample.mem.wf = true ∧ sample.nib = none ∧ sample.effAddr ⟨false, 3, 5, 0⟩ = .ok 0xFFFFE ∧
      (0xFFFFE + 1 : Word).toNat < sample.params.memWords ∧
      sample.effAddr (direct 101) = .ok 101 ∧ sample.effAddr (direct 100) = .ok 100 ∧
      sampleFull.mem.wf = true ∧ sampleFull.effAddr ⟨false, 0, 3, 0⟩ = .ok 0xFFFFFFFF ∧
      (0xFFFFFFFF : Word).toNat < sampleFull.params.memWords ∧
      (0xFFFFFFFF + 1 : Word).toNat < sampleFull.params.memWords := by decide

/-- The last word for a single operand, the last two for a double one. -/
theorem witness_FloatMemoryResult :
    sample.effAddr ⟨false, 0, 5, 0⟩ = .ok 0xFFFFF ∧ (0xFFFFF : Word).toNat < sample.params.memWords ∧
      sample.effAddr ⟨false, 3, 5, 0⟩ = .ok 0xFFFFE ∧ (0xFFFFE : Word).toNat < sample.params.memWords ∧
      (0xFFFFE + 1 : Word).toNat < sample.params.memWords := by decide

/-- Both forms; a word that controls P and one that does not. -/
theorem witness_ExcRuns :
    sample.effAddr (direct 203) = .ok 203 ∧ (203 : Word).toNat < sample.params.memWords ∧
      sample.mem.readWord 203 = 0xA1000007 ∧ decodeWord 0xA1000007 = .ok (.seta 2 7) ∧
      isExc (.seta 2 7) = false ∧ registerOnly (.seta 2 7) = true ∧ controls (.seta 2 7) = false ∧
      sample.effAddr (direct 77) = .ok 77 ∧ decodeWord 77 = .ok (.stop 77) ∧ isExc (.stop 77) = false ∧
      registerOnly (.stop 77) = true := by decide

/-- Each stop of EXC: the address, MEM_WORDS, an EXC in memory and as an immediate, no instruction in
memory and as an immediate. -/
theorem witness_ExcStops :
    sampleTainted.effAddr ⟨false, 3, 0, 0⟩ = .error (.refusal (.taintedAddress 3)) ∧
    (sample.effAddr ⟨false, 0, 4, 0⟩ = .ok 0x100000 ∧ sample.params.memWords ≤ (0x100000 : Word).toNat) ∧
    (sample.effAddr (direct 204) = .ok 204 ∧ (204 : Word).toNat < sample.params.memWords ∧
      (sample.mem.readWord 204).extractLsb' 18 5 = 2) ∧
    (let s := sample.setReg 7 0x00080000;
      s.effAddr ⟨false, 0, 7, 0⟩ = .ok 0x80000 ∧ (0x80000 : Word).extractLsb' 18 5 = 2) ∧
    (sample.effAddr (direct 205) = .ok 205 ∧ decodeWord (sample.mem.readWord 205) = .error .stopSubcode ∧
      (sample.mem.readWord 205).extractLsb' 18 5 ≠ 2) ∧
    (let s := sample.setReg 7 0x00800000;
      s.effAddr ⟨false, 0, 7, 0⟩ = .ok 0x800000 ∧ decodeWord 0x800000 = .error .stopSubcode) := by decide

theorem witness_StopResult :
    (0x00800000 : Word).extractLsb' 18 5 = 0 ∧ (0x00800000 : Word).extractLsb' 27 5 = 0 ∧
      (0x00800000 : Word).extractLsb' 23 4 ≠ 0 := by decide

theorem witness_ReservedRefused :
    (0x00540000 : Word).extractLsb' 18 5 = 21 ∧ (0x58000000 : Word).extractLsb' 18 5 = 0 ∧
      (0x58000000 : Word).getLsbD 31 = false ∧ (0x58000000 : Word).extractLsb' 27 4 = 11 := by decide

/-- The bit set and clear; DR = 0 under both settings of r0_dest_test. -/
theorem witness_BitSkipResult :
    (sample.reg 2).getLsbD 31 = true ∧ (sample.reg 2).getLsbD 30 = false ∧
      sample.params.r0DestTest = .result ∧ sampleMonitor.params.r0DestTest = .reread := by decide

/-- In range, above and below: 3.5, 2^31, -2^32. -/
theorem witness_ToIntegerResult :
    (scaledValue .single 0x40B00000).tdiv (floatScale .single) = 3 ∧
      2 ^ 31 ≤ (scaledValue .single 0x48000000).tdiv (floatScale .single) ∧
      (scaledValue .single 0xC8400000).tdiv (floatScale .single) < -2 ^ 31 := by decide

/-- The integer 0, for which the delivered word is the all-zero one, and one that is not 0. -/
theorem witness_FromIntegerResult :
    (sample.reg 0).toInt = 0 ∧ (sample.reg 1).toInt = 5 ∧ flo .single 0 = 0 ∧ flo .double 0 = 0 := by
  decide

/-- Both carry settings, both operations, an unsigned carry, and a signed overflow with the monitor call. -/
theorem witness_AddSubResult :
    (2 : Int) ^ 32 ≤ ((sample.reg 3).toNat : Int) + (sample.reg 1).toNat ∧
      ¬(2 : Int) ^ 32 ≤ ((sample.reg 1).toNat : Int) + (sample.reg 1).toNat ∧
      sampleMonitor.params.overflowAction = .monitorCall ∧
      2 ^ 31 ≤ (sampleMonitor.reg 6).toInt + (sampleMonitor.reg 1).toInt ∧
      (sampleMonitor.reg 2).toInt - (sampleMonitor.reg 1).toInt < -2 ^ 31 := by decide

/-- An ordinary divisor, a zero divisor, -2^31 / -1, and products in range and out of range. -/
theorem witness_MulDivResult :
    sample.reg 1 ≠ 0 ∧ ¬(sample.reg 2 = 0x80000000 ∧ sample.reg 1 = 0xFFFFFFFF) ∧ sample.reg 0 = 0 ∧
      sampleMonitor.reg 2 = 0x80000000 ∧ sampleMonitor.reg 3 = 0xFFFFFFFF ∧
      sampleMonitor.params.overflowAction = .monitorCall ∧
      2 ^ 31 ≤ (sampleMonitor.reg 6).toInt * (sampleMonitor.reg 1).toInt ∧
      (sample.reg 3).toInt * (sample.reg 1).toInt = -5 := by decide

/-- Each relation holding and not holding, and a signed overflow with the monitor call. -/
theorem witness_IntegerSkipResult :
    (sample.reg 1 - sample.reg 1).toInt = 0 ∧ (sample.reg 1 - sample.reg 6).toInt < 0 ∧
      (sample.reg 1 + sample.reg 1).toInt = 10 ∧ sampleMonitor.params.overflowAction = .monitorCall ∧
      (sampleMonitor.reg 2).toInt - (sampleMonitor.reg 1).toInt < -2 ^ 31 := by decide

/-- Differences of each sign (1 - 1, 2 - 3, 3 - 2), and both settings of r0_dest_test. -/
theorem witness_FloatSkipResult :
    scaledValue .single (addSub .single true 0x40400000 0x40400000).bits = 0 ∧
      scaledValue .single (addSub .single true 0x40800000 0x40A00000).bits < 0 ∧
      0 < scaledValue .single (addSub .single true 0x40A00000 0x40800000).bits ∧
      cellHigh ⟨false, 0⟩ = 0 ∧ sample.params.r0DestTest = .result ∧
      sampleMonitor.params.r0DestTest = .reread := by decide

/-- ADDA and ADCA in range and out of range, with the monitor call. -/
theorem witness_DirectArithResult :
    sampleMonitor.params.overflowAction = .monitorCall ∧
      2 ^ 31 ≤ (sampleMonitor.reg 6).toInt + ((1 : BitVec 16).toNat : Int) ∧
      (sampleMonitor.reg 2).toInt - ((1 : BitVec 16).toNat : Int) < -2 ^ 31 ∧
      (sample.reg 1).toInt + ((1 : BitVec 16).toNat : Int) = 6 := by decide

/-- The register equal to, above and below A, and -A. -/
theorem witness_DirectSkipResult :
    (sample.reg 1).toInt = ((5 : BitVec 16).toNat : Int) ∧
      (sample.reg 1).toInt < ((6 : BitVec 16).toNat : Int) ∧
      (sample.reg 3).toInt = -((1 : BitVec 16).toNat : Int) ∧
      (sample.reg 2).toInt < -((1 : BitVec 16).toNat : Int) := by decide

/-- A rounded sum with no event; an exact zero difference. -/
theorem witness_FloatAddNearest :
    (addSub .single false 0x40600000 0x3A800000).event = .none ∧
      (addSub .double true 0x4040000000000000 0x3AC0000000000001).event = .none ∧
      scaledValue .single 0x40400000 - scaledValue .single 0x40400000 = 0 := by decide

/-- Zero operands on either side, the word 0 and the other words that read as zero. -/
theorem witness_FloatAddZero :
    (0x803FFFFF : Nat) < 2 ^ wordBits .single ∧ unpack .single 0x803FFFFF = none ∧
      unpack .single 0 = none ∧ unpack .single 0xFFFFFFFF ≠ none ∧ unpack .single 0x00400000 ≠ none := by
  decide

/-- An exact and an inexact product and quotient, without event. -/
theorem witness_FloatMulDivAccuracy :
    unpack .single 0x40A00000 ≠ none ∧ unpack .single 0x40A00001 ≠ none ∧
      (fmul .single 0x40A00000 0x40A00000).event = .none ∧
      (fmul .single 0x40A00001 0x40A00001).event = .none ∧
      (fdiv .single 0x40400000 0x40A00000).event = .none ∧
      (fdiv .single 0x40A00000 0x40400000).event = .none := by decide

/-- The limits of overflow and underflow, with the results just inside: a sum that rounds up to exponent
512, a product of 2^255 and one of -2^256, a quotient; the least product and half of it, a quotient, and
a difference of neighbours; an exact zero. -/
theorem witness_FloatForced :
    (∀ c ∈ ([
      (.add, 0x7FFFFFFF, 0x7A000000, ⟨0x7FFFFFFF, .overflow⟩),
      (.add, 0x7FFFFFFF, 0x79FFFFFF, ⟨0x7FFFFFFF, .none⟩),
      (.sub, 0xFFFFFFFF, 0x7A000000, ⟨0xFFFFFFFF, .overflow⟩),
      (.mul, 0x60000000, 0x60000000, ⟨0x7FC00000, .none⟩),
      (.mul, 0x60400000, 0xE0000000, ⟨0xFFFFFFFF, .overflow⟩),
      (.div, 0x7FC00000, 0x40400000, ⟨0x7FC00000, .none⟩),
      (.div, 0x7FC00000, 0xC0000000, ⟨0xFFFFFFFF, .overflow⟩),
      (.mul, 0x20400000, 0x20400000, ⟨0x00400000, .none⟩),
      (.mul, 0x20400000, 0x20000000, ⟨0, .underflow⟩),
      (.div, 0x00400000, 0x40800000, ⟨0, .underflow⟩),
      (.sub, 0x00400001, 0x00400000, ⟨0, .underflow⟩),
      (.sub, 0x00800000, 0x00400000, ⟨0x00400000, .none⟩),
      (.sub, 0x40400000, 0x40400000, ⟨0, .none⟩)] : List (ArithOp × Nat × Nat × FloatResult)),
      floatArith c.1 .single c.2.1 c.2.2.1 = c.2.2.2) ∧
    unpack .single 0x40800000 ≠ none := by decide

/-- Sticky flags that are set, before an instruction that sets neither. -/
theorem witness_FlagsSticky :
    (∃ t, exec (.seta 1 1) { sample with ovf := true, unf := true } = .next t ∧ t.ovf = true) ∧
      isExc (.seta 1 1) = false ∧ floating (.seta 1 1) = false ∧ convertsToInteger (.seta 1 1) = false :=
  ⟨exists_next (by decide), by decide⟩

/-- An instruction that neither reads nor writes CB, one that reads it only, one that writes it only; and
an EXC of an instruction that does neither. -/
theorem witness_CarryBit :
    (∃ t, exec (.rad 4 1 2) sample = .next t ∧ (t.cb == sample.cb) = true) ∧
      (∃ t, exec (.exc .memory 0 0 203) sample = .next t ∧ (t.cb == sample.cb) = true) ∧
      executed (.rad 4 1 2) sample = .rad 4 1 2 ∧ executed (.exc .memory 0 0 203) sample = .seta 2 7 ∧
      writesCB (.seta 2 7) = false ∧ readsCB (.seta 2 7) = false ∧
      writesCB (.rad 4 1 2) = false ∧ readsCB (.rad 4 1 2) = false ∧
      writesCB (.iroAddSub false true false 4 1 2) = false ∧
      readsCB (.iroAddSub true false false 4 1 2) = false :=
  ⟨exists_next (by decide), exists_next (by decide), by decide⟩

/-- A double shift taints a register that was not; an ordinary instruction writes neither OR nor RR. -/
theorem witness_StateWriters :
    (∃ t, exec (.slrd ⟨⟨false, 1⟩, true⟩ ⟨⟨false, 2⟩, true⟩ 1) sample = .next t ∧
      (t.isTainted 1 && !sample.isTainted 1) = true) ∧
      shiftsDouble (.slrd ⟨⟨false, 1⟩, true⟩ ⟨⟨false, 2⟩, true⟩ 1) = true ∧
      isExc (.seta 1 1) = false ∧ writesOR (.seta 1 1) = false ∧ writesRR (.seta 1 1) = false :=
  ⟨exists_next (by decide), by decide⟩

/-- A store, with a byte outside the stored word and next to it; an instruction that stores nothing. -/
theorem witness_WritesOnlyItsWords :
    (∃ t, exec (.str 1 (direct 200)) sample = .next t ∧ (t.mem.readWord 200 == 5) = true) ∧
      isExc (.str 1 (direct 200)) = false ∧ memRef (.str 1 (direct 200)) = some (direct 200) ∧
      sample.effAddr (direct 200) = .ok 200 ∧
      (∀ a ∈ writtenWords (.str 1 (direct 200)) 200, 804 / 4 ≠ a.toNat) ∧
      (∃ t, exec (.seta 1 1) sample = .next t ∧ (t.reg 1 == 1) = true) ∧ memRef (.seta 1 1) = none :=
  ⟨exists_next (by decide), by decide, by decide, by decide, by simp [writtenWords],
    exists_next (by decide), by decide⟩

/-- Each way: unchanged, STOP, and an overflow with the monitor call. -/
theorem witness_RunState :
    (∃ t, exec (.seta 1 1) sample = .next t ∧ (t.run == sample.run) = true) ∧
      (∃ t, exec (.stop 9) sample = .next t ∧ (t.run == .stopped (.monitor 9)) = true) ∧
      ∃ t, exec (.adda 6 1) sampleMonitor = .next t ∧ (t.run == .stopped (.overflow 100)) = true :=
  ⟨exists_next (by decide), exists_next (by decide), exists_next (by decide)⟩

theorem witness_NextByDefault :
    controls (.seta 1 1) = false ∧ ∃ t, exec (.seta 1 1) sample = .next t ∧ (t.pc == 101) = true :=
  ⟨by decide, exists_next (by decide)⟩

end Sys2Proof.Tests
end

section
/-! PROOFS. The default rule of P (00_scope.md R5): every instruction that is no stop, jump, skip or EXC
ends at P + 1. The rules about P come first, then one lemma per shared meaning, then the instructions. -/

namespace Sys2Proof.Machine

/-! ## P after the shared updates -/

@[simp] theorem setF_pc (s : State) (f : FReg) (v : Word) : (s.setF f v).pc = s.pc := by
  simp [State.setF]

@[simp] theorem setFD_pc (s : State) (f : FReg) (v : DWord) : (s.setFD f v).pc = s.pc := by
  simp [State.setFD]

@[simp] theorem setTaintedFD_pc (s : State) (f : FReg) (v : DWord) :
    (s.setTaintedFD f v).pc = s.pc := by
  simp [State.setTaintedFD]

@[simp] theorem setTaintedFreg_pc (s : State) (p : Precision) (f : FReg) (v : Nat) :
    (s.setTaintedFreg p f v).pc = s.pc := by
  cases p with
  | single => simp [State.setTaintedFreg, State.setTaintedF]
  | double => simp [State.setTaintedFreg]

@[simp] theorem setInt_pc (s : State) (r : Reg) (t : Int) : (s.setInt r t).pc = s.pc + 1 := by
  simp [State.setInt]

@[simp] theorem setProduct_pc (s : State) (r : Reg) (t : Int) :
    (s.setProduct r t).pc = s.pc + 1 := by
  simp [State.setProduct]

@[simp] theorem setQuotient_pc (s : State) (r : Reg) (n d : Word) :
    (s.setQuotient r n d).pc = s.pc + 1 := by
  simp [State.setQuotient]

theorem store_pc {s t : State} {a v : Word} (h : s.store a v = .ok t) : t.pc = s.pc := by
  obtain ⟨_, rfl⟩ := store_ok_iff.mp h
  rfl

theorem store2_pc {s t : State} {a hi lo : Word} (h : s.store2 a hi lo = .ok t) : t.pc = s.pc := by
  obtain ⟨u, first, second⟩ := store2_ok_iff.mp h
  rw [store_pc second, store_pc first]

/-! ## Outcomes that advance P -/

/-- The outcome `o` of an instruction begun in `s` leaves P at the next location, if it is a next state
(00_scope.md R5). A structure, so that a lemma about a meaning does not unfold to its equation. -/
structure Advances (s : State) (o : Outcome) : Prop where
  pc_of_next : ∀ t, o = .next t → t.pc = s.pc + 1

theorem advances_next {s t : State} (h : t.pc = s.pc + 1) : Advances s (.next t) where
  pc_of_next := by
    rintro _ ⟨⟩
    exact h

/-- A sequence advances P when its rest does for every value of its first part; a first part that stops
leaves no next state. -/
theorem advances_bind {α : Type} {s : State} {x : Res α} {f : α → Res State}
    (h : ∀ a, x = .ok a → Advances s (deliver (f a))) : Advances s (deliver (x >>= f)) where
  pc_of_next t ht := by
    obtain ⟨a, hx, hf⟩ := bind_ok_iff.mp (deliver_next_iff.mp ht)
    exact (h a hx).pc_of_next t (deliver_next_iff.mpr hf)

theorem advances_refused (s : State) (r : Refusal) : Advances s (.refused r) where
  pc_of_next := nofun

/-! ## Memory reference instructions -/

section Memory

variable (r : Reg) (m : MemRef) (s : State)

theorem execAdd_advances : Advances s (execAdd r m s) :=
  advances_bind fun _ _ => advances_bind fun _ _ => advances_next (setInt_pc ..)

theorem execSub_advances : Advances s (execSub r m s) :=
  advances_bind fun _ _ => advances_bind fun _ _ => advances_next (setInt_pc ..)

theorem execAnd_advances : Advances s (execAnd r m s) :=
  advances_bind fun _ _ => advances_bind fun _ _ => advances_next (by simp)

theorem execLdr_advances : Advances s (execLdr r m s) :=
  advances_bind fun _ _ => advances_bind fun _ _ => advances_next (by simp)

theorem execAdm_advances : Advances s (execAdm r m s) :=
  advances_bind fun _ _ => advances_bind fun _ _ => advances_bind fun _ stored =>
    advances_next (by simp [store_pc stored])

theorem execXmr_advances : Advances s (execXmr r m s) :=
  advances_bind fun _ _ => advances_bind fun _ _ => advances_bind fun _ stored =>
    advances_next (by simp [store_pc stored])

theorem execStr_advances : Advances s (execStr r m s) :=
  advances_bind fun _ _ => advances_bind fun _ stored => advances_next (by simp [store_pc stored])

theorem execMpy_advances : Advances s (execMpy r m s) :=
  advances_bind fun _ _ => advances_bind fun _ _ => advances_next (setProduct_pc ..)

theorem execDiv_advances : Advances s (execDiv r m s) :=
  advances_bind fun _ _ => advances_bind fun _ _ => advances_next (setQuotient_pc ..)

theorem execLdd_advances (fd : FDesignator) : Advances s (execLdd fd m s) :=
  advances_bind fun _ _ => advances_bind fun _ _ => advances_next (by simp)

theorem execStd_advances (fd : FDesignator) : Advances s (execStd fd m s) :=
  advances_bind fun _ _ => advances_bind fun _ stored => advances_next (by simp [store2_pc stored])

theorem floatMemory_advances (op : ArithOp) (p : Precision) (f : FReg) :
    Advances s (floatMemory op p f m s) :=
  advances_bind fun _ _ => advances_bind fun _ _ => advances_next (by simp)

end Memory

/-! ## Inter-register and argument instructions -/

section Register

variable (dr sra srb : Reg) (s : State)

theorem registerIO_advances (write : Bool) (e : ExtReg) :
    Advances s (registerIO write dr sra e s) := by
  cases write with
  | false => exact advances_next (by simp)
  | true => exact advances_next (by simp)

theorem shiftSingle_advances (l r : Bool) (sm : ShiftMode) (sc : BitVec 5) :
    Advances s (shiftSingle l r sm dr sra sc s) :=
  advances_next (by simp)

theorem shiftDouble_advances (l r : Bool) (sm : ShiftMode) (dfd srad : FDesignator) (sc : BitVec 6) :
    Advances s (shiftDouble l r sm dfd srad sc s) :=
  advances_next (by simp)

theorem setReg_next_advances (v : Word) : Advances s (.next (s.setReg dr v).next) :=
  advances_next (by simp)

theorem toInteger_advances (p : Precision) (round : Bool) (f : FReg) :
    Advances s (toInteger p round dr f s) :=
  advances_next (by simp)

theorem execFlo_advances (f : FReg) : Advances s (execFlo f sra s) :=
  advances_next (by simp)

theorem execFlod_advances (f : FReg) : Advances s (execFlod f sra s) :=
  advances_next (by simp)

theorem logic_advances (ca cb : Bool) (lo : LogicOp) : Advances s (logic ca cb lo dr sra srb s) :=
  setReg_next_advances ..

theorem addSubCarry_advances (sc ac subtract : Bool) :
    Advances s (addSubCarry sc ac subtract dr sra srb s) :=
  advances_next (by simp)

theorem mulDiv_advances (divide : Bool) : Advances s (mulDiv divide dr sra srb s) := by
  cases divide with
  | false => exact advances_next (setProduct_pc ..)
  | true => exact advances_next (setQuotient_pc ..)

theorem floatRegister_advances (op : ArithOp) (p : Precision) (df : FReg) (a b : FDesignator) :
    Advances s (floatRegister op p df a b s) :=
  advances_next (by simp)

theorem directLogic_advances (lf : DirectLogic) (a : BitVec 16) :
    Advances s (directLogic lf dr a s) :=
  setReg_next_advances ..

theorem directArith_advances (af : DirectArith) (a : BitVec 16) :
    Advances s (directArith af dr a s) :=
  advances_next (setInt_pc ..)

end Register

/-! ## Every instruction -/

/-- Each instruction that does not control P has one of the meanings above: a mnemonic has the meaning
of its parent row. -/
theorem exec_advances (i : Instr) (s : State) (h : controls i = false) : Advances s (exec i s) := by
  cases i
  case add => exact execAdd_advances ..
  case sub => exact execSub_advances ..
  case and => exact execAnd_advances ..
  case ldr => exact execLdr_advances ..
  case adm => exact execAdm_advances ..
  case xmr => exact execXmr_advances ..
  case str => exact execStr_advances ..
  case mpy => exact execMpy_advances ..
  case div => exact execDiv_advances ..
  case ldd => exact execLdd_advances ..
  case std => exact execStd_advances ..
  case fad | fadd | fsb | fsbd | fmu | fmud | fdv | fdvd => exact floatMemory_advances ..
  case fc21 | rfc11 => exact advances_refused ..
  case rio => exact registerIO_advances ..
  case rin _ unused _ => exact registerIO_advances (sra := unused) (write := false) ..
  case rout unused _ _ => exact registerIO_advances (dr := unused) (write := true) ..
  case shr | slr | srr | sla | sra | sll | srl => exact shiftSingle_advances ..
  case shd | slrd | srrd | slad | srad | slld | srld => exact shiftDouble_advances ..
  case bst | bcm | bcl => exact setReg_next_advances ..
  case fix | fir | fixd | fird => exact toInteger_advances ..
  case flo => exact execFlo_advances ..
  case flod => exact execFlod_advances ..
  case lro | szr | rnd | rnda | rndb | rxo | rxoa | rxob | ror | rora | rorb =>
    exact logic_advances ..
  case iroAddSub | rad | rsb => exact addSubCarry_advances ..
  case iroMulDiv => exact mulDiv_advances ..
  case rmu => exact mulDiv_advances (divide := false) ..
  case rdv => exact mulDiv_advances (divide := true) ..
  case fro | raf | rsf | rmf | rdf | rafd | rsfd | rmfd | rdfd => exact floatRegister_advances ..
  case dlr => exact directLogic_advances ..
  case dlrClear _ a => exact directLogic_advances (lf := .clear) (a := a) ..
  case xora => exact directLogic_advances (lf := .xor) ..
  case anda => exact directLogic_advances (lf := .and) ..
  case ora => exact directLogic_advances (lf := .or) ..
  case dar | seta | seca | adda | adca => exact directArith_advances ..
  -- what is left is the stop, the jumps, the skips and EXC
  all_goals cases h

/-- Settles O60, from the rule that each meaning keeps. -/
theorem nextByDefault : Obligations.NextByDefault :=
  fun i s t h ht => (exec_advances i s h).pc_of_next t ht

end Sys2Proof.Machine
end

section
/-! PROOFS. The reset state (10_state.md R42, 70_reset_and_hazards.md R400) and register zero (10_state.md
R22, R27). -/

namespace Sys2Proof.Machine

/-! ## Reset -/

theorem reset_isTainted (b : BitVec 4) : State.reset.isTainted b = false := by
  simp [State.isTainted, State.reset]

/-- The cells hold the reset value, and GR_0 reads as zero, which is the same word. -/
theorem reset_reg (r : Reg) : State.reset.reg r = Config.resetRegister := by
  simp [State.reg, State.reset, Config.resetRegister]

/-- Settles O1, field by field. -/
theorem resetState : Obligations.ResetState :=
  ⟨rfl, rfl, rfl, rfl, rfl, rfl, rfl, rfl, rfl, rfl, rfl, reset_isTainted, fun r _ => reset_reg r,
    fun _ => rfl⟩

/-- Settles O2: memory lists nothing, nothing is buffered, and 2^20 words are in range. -/
theorem resetInv : Obligations.ResetInv where
  memWf := reset_mem_wf
  memInside := nofun
  memWordsPos := by decide
  memWordsMax := by decide
  cellZero := rfl
  taintZero := rfl
  buffer := nofun

/-! ## Register zero -/

theorem writeReg_zero (s : State) (v : Word) (x : Bool) : s.writeReg 0 v x = s := rfl

/-- FR_0 is GR_0 (10_state.md R26). -/
theorem f_zero (s : State) : s.f ⟨false, 0⟩ = 0 := rfl

/-- GR_0 as base or index: never tainted, always zero (40_memory_reference.md R134). -/
theorem addressReg_zero (s : State) : s.addressReg 0 = .ok 0 := rfl

/-- FD_0 is GR_0 :: GR_16 (10_state.md R27). -/
theorem fd_zero (s : State) : s.fd ⟨false, 0⟩ = 0#32 ++ s.reg 16 := rfl

/-- A write of FD_0 is a write of GR_16: the half that goes to GR_0 is discarded. -/
theorem setFD_zero (s : State) (d : DWord) :
    s.setFD ⟨false, 0⟩ d = s.setReg 16 (d.extractLsb' 0 32) := rfl

/-- A double word whose left word is zero is the number zero, whatever its right word
(43_floating_numerics.md R322). -/
theorem unpack_zero_append (v : Word) : unpack .double (0#32 ++ v).toNat = none := by
  have small : (0#32 ++ v).toNat < 2 ^ 32 := by
    rw [BitVec.toNat_append, BitVec.toNat_zero, Nat.zero_shiftLeft, Nat.zero_or]
    exact v.isLt
  have exponent : exponentField .double (0#32 ++ v).toNat = 0 := by
    simp only [exponentField, mantissaBits]
    omega
  rw [unpack, if_pos exponent]

/-- Settles O4: each view of GR_0 reads zero, and a write of FD_0 is one of GR_16. -/
theorem registerZero : Obligations.RegisterZero := by
  intro s v d x
  refine ⟨reg_zero s, f_zero s, addressReg_zero s, writeReg_zero s v x, fd_zero s, ?_, ?_, ?_⟩
  · rw [fd_zero]
    exact unpack_zero_append _
  · rw [setFD_zero, setReg_reg, if_pos (by decide)]
  · intro r other
    rw [setFD_zero, setReg_reg, if_neg fun written => other written.1]

end Sys2Proof.Machine
end

section
/-! PROOFS. What an instruction may change besides the general registers, P, the buffer, memory and the
run state: the permissions of each instruction, the rule of each update, one lemma per shared meaning,
then every instruction, and what EXC adds (10_state.md R30 to R35, R38, R41). -/

namespace Sys2Proof.Machine

/-! ## Outcomes with a property -/

/-- The next state of the outcome `o`, if it is one, has the property `P`. -/
structure Yields (P : State → Prop) (o : Outcome) : Prop where
  of_next : ∀ t, o = .next t → P t

section Yields

variable {P : State → Prop}

theorem yields_next {t : State} (h : P t) : Yields P (.next t) where
  of_next := by
    rintro _ ⟨⟩
    exact h

/-- A first part that stops leaves no next state, so the rest decides. -/
theorem yields_bind {α : Type} {x : Res α} {f : α → Res State}
    (h : ∀ a, x = .ok a → Yields P (deliver (f a))) : Yields P (deliver (x >>= f)) where
  of_next t ht := by
    obtain ⟨a, hx, hf⟩ := bind_ok_iff.mp (deliver_next_iff.mp ht)
    exact (h a hx).of_next t (deliver_next_iff.mpr hf)

theorem yields_refused (r : Refusal) : Yields P (.refused r) where
  of_next := nofun

end Yields

/-! ## Products and quotients by the shared updates -/

/-- OR is the external register that a product writes (40_memory_reference.md R161). -/
theorem setProduct_eq (s : State) (r : Reg) (t : Int) :
    s.setProduct r t =
      ((s.setExt .overflow (productHigh t)).setReg r (productLow t)).next.overflowCall s.pc
        (intOverflow t) := rfl

/-- RR is the external register that a quotient writes (40_memory_reference.md R162). -/
theorem setQuotient_eq (s : State) (r : Reg) (n d : Word) :
    s.setQuotient r n d =
      ((s.setExt .remainder (remainder n d)).setReg r (quotient n d)).next.overflowCall s.pc
        (divisionOverflow n d) := rfl

/-! ## Permissions -/

/-- Which of OR, RR, CB, OVF and UNF an instruction may write, and whether it may taint registers. -/
structure Permissions where
  regOR : Bool
  regRR : Bool
  cb : Bool
  ovf : Bool
  unf : Bool
  taint : Bool

/-- The permissions of an instruction other than EXC, from the classes of Sys2Proof/Safety.lean. -/
def permissions (i : Instr) : Permissions where
  regOR := writesOR i
  regRR := writesRR i
  cb := writesCB i
  ovf := floating i || convertsToInteger i
  unf := floating i
  taint := floating i || shiftsDouble i

/-- From `s` to `t` only permitted parts change, the two flags are never cleared, and IR and the
parameters stay. -/
structure Within (a : Permissions) (s t : State) : Prop where
  params : t.params = s.params
  ir : t.ir = s.ir
  regOR : a.regOR = false → t.regOR = s.regOR
  regRR : a.regRR = false → t.regRR = s.regRR
  cb : a.cb = false → t.cb = s.cb
  ovf : t.ovf = s.ovf ∨ a.ovf = true ∧ t.ovf = true
  unf : t.unf = s.unf ∨ a.unf = true ∧ t.unf = true
  taint : ∀ b, t.isTainted b = true → s.isTainted b = true ∨ a.taint = true

namespace Within

variable {a : Permissions} {s t : State}

theorem refl : Within a s s where
  params := rfl
  ir := rfl
  regOR _ := rfl
  regRR _ := rfl
  cb _ := rfl
  ovf := .inl rfl
  unf := .inl rfl
  taint _ := .inl

theorem trans {u : State} (h : Within a s t) (k : Within a t u) : Within a s u where
  params := k.params.trans h.params
  ir := k.ir.trans h.ir
  regOR no := (k.regOR no).trans (h.regOR no)
  regRR no := (k.regRR no).trans (h.regRR no)
  cb no := (k.cb no).trans (h.cb no)
  ovf := k.ovf.elim (fun e => e ▸ h.ovf) .inr
  unf := k.unf.elim (fun e => e ▸ h.unf) .inr
  taint b tainted := (k.taint b tainted).elim (h.taint b) .inr

/-- A set flag stays set (10_state.md R34). -/
theorem ovf_sticky (h : Within a s t) (set : s.ovf = true) : t.ovf = true :=
  h.ovf.elim (·.trans set) And.right

/-- A set flag stays set (10_state.md R35). -/
theorem unf_sticky (h : Within a s t) (set : s.unf = true) : t.unf = true :=
  h.unf.elim (·.trans set) And.right

theorem ovf_eq (h : Within a s t) (no : a.ovf = false) : t.ovf = s.ovf :=
  h.ovf.resolve_right fun set => Bool.false_ne_true (no.symm.trans set.1)

theorem unf_eq (h : Within a s t) (no : a.unf = false) : t.unf = s.unf :=
  h.unf.resolve_right fun set => Bool.false_ne_true (no.symm.trans set.1)

/-! ### The rule of each update -/

/-- One more update, given by what it does to each part: a part that nothing is said of stays. -/
theorem update {u : State} (h : Within a s t) (params : u.params = t.params := by simp)
    (ir : u.ir = t.ir := by simp) (regOR : a.regOR = false → u.regOR = t.regOR := by simp)
    (regRR : a.regRR = false → u.regRR = t.regRR := by simp)
    (cb : a.cb = false → u.cb = t.cb := by simp)
    (ovf : u.ovf = t.ovf ∨ a.ovf = true ∧ u.ovf = true := by simp)
    (unf : u.unf = t.unf ∨ a.unf = true ∧ u.unf = true := by simp)
    (taint : ∀ b, u.isTainted b = true → t.isTainted b = true ∨ a.taint = true :=
      by simp +contextual) : Within a s u :=
  h.trans { params, ir, regOR, regRR, cb, ovf, unf, taint }

theorem next (h : Within a s t) : Within a s t.next := h.update

theorem jump (h : Within a s t) (p : Word) : Within a s (t.jump p) := h.update

theorem skipIf (h : Within a s t) (c : Bool) : Within a s (t.skipIf c) := h.update

theorem jumpIf (h : Within a s t) (c : Bool) (p : Word) : Within a s (t.jumpIf c p) := h.update

theorem monitorCall (h : Within a s t) (c : StopCause) : Within a s (t.monitorCall c) := h.update

theorem overflowCall (h : Within a s t) (p : Word) (o : Bool) : Within a s (t.overflowCall p o) :=
  h.update

theorem store {u : State} {p v : Word} (h : Within a s t) (stored : t.store p v = .ok u) :
    Within a s u := by
  obtain ⟨_, rfl⟩ := store_ok_iff.mp stored
  exact h.update

theorem store2 {u : State} {p hi lo : Word} (h : Within a s t) (stored : t.store2 p hi lo = .ok u) :
    Within a s u := by
  obtain ⟨_, first, second⟩ := store2_ok_iff.mp stored
  exact (h.store first).store second

/-- A write that taints needs the permission, one that clears the taint does not (10_state.md R38). -/
theorem writeReg {x : Bool} (h : Within a s t) (r : Reg) (v : Word)
    (may : x = true → a.taint = true) : Within a s (t.writeReg r v x) := by
  refine h.update (taint := fun b tainted => ?_)
  rw [writeReg_isTainted] at tainted
  split at tainted
  · exact .inr (may tainted)
  · exact .inl tainted

theorem setReg (h : Within a s t) (r : Reg) (v : Word) : Within a s (t.setReg r v) :=
  h.writeReg r v nofun

theorem setTaintedReg (h : Within a s t) (r : Reg) (v : Word) (may : a.taint = true) :
    Within a s (t.setTaintedReg r v) :=
  h.writeReg r v fun _ => may

theorem setFD (h : Within a s t) (f : FReg) (v : DWord) : Within a s (t.setFD f v) :=
  (h.setReg ..).setReg ..

theorem setTaintedFD (h : Within a s t) (f : FReg) (v : DWord) (may : a.taint = true) :
    Within a s (t.setTaintedFD f v) :=
  (h.setTaintedReg _ _ may).setTaintedReg _ _ may

theorem setTaintedFreg (h : Within a s t) (p : Precision) (f : FReg) (v : Nat)
    (may : a.taint = true) : Within a s (t.setTaintedFreg p f v) := by
  cases p with
  | single => exact h.setTaintedReg _ _ may
  | double => exact h.setTaintedFD _ _ may

theorem note (h : Within a s t) (e : FloatEvent) (ovf : e = .overflow → a.ovf = true)
    (unf : e = .underflow → a.unf = true) : Within a s (t.note e) := by
  cases e with
  | none => exact h
  | overflow => exact h.update (ovf := .inr ⟨ovf rfl, rfl⟩)
  | underflow => exact h.update (unf := .inr ⟨unf rfl, rfl⟩)

theorem setExt (h : Within a s t) (e : ExtReg) (v : Word) (regOR : e = .overflow → a.regOR = true)
    (regRR : e = .remainder → a.regRR = true) : Within a s (t.setExt e v) := by
  cases e with
  | overflow => exact h.update (regOR := fun no => nomatch no.symm.trans (regOR rfl))
  | remainder => exact h.update (regRR := fun no => nomatch no.symm.trans (regRR rfl))

theorem setInt (h : Within a s t) (r : Reg) (v : Int) : Within a s (t.setInt r v) :=
  (h.setReg ..).next.overflowCall ..

theorem setProduct (h : Within a s t) (r : Reg) (v : Int) (may : a.regOR = true) :
    Within a s (t.setProduct r v) := by
  rw [setProduct_eq]
  exact ((h.setExt .overflow _ (fun _ => may) nofun).setReg ..).next.overflowCall ..

theorem setQuotient (h : Within a s t) (r : Reg) (n d : Word) (may : a.regRR = true) :
    Within a s (t.setQuotient r n d) := by
  rw [setQuotient_eq]
  exact ((h.setExt .remainder _ nofun fun _ => may).setReg ..).next.overflowCall ..

end Within

/-! ## Memory reference instructions -/

section Memory

variable {a : Permissions} (r : Reg) (m : MemRef) (s : State)

theorem execRtj_within : Yields (Within a s) (execRtj r m s) :=
  yields_bind fun _ _ => yields_next ((Within.refl.setReg ..).jump _)

theorem jumpOn_within (rl : Relation) : Yields (Within a s) (jumpOn rl r m s) :=
  yields_bind fun _ _ => yields_next (Within.refl.jumpIf ..)

theorem modifyJump_within (rl : Relation) (q : BitVec 4) :
    Yields (Within a s) (modifyJump rl q m s) :=
  yields_bind fun _ _ => yields_next (((Within.refl.setReg ..).jumpIf ..).overflowCall ..)

theorem compareSkip_within (rl : Relation) : Yields (Within a s) (compareSkip rl r m s) :=
  yields_bind fun _ _ => yields_bind fun _ _ => yields_next (Within.refl.skipIf _)

theorem execMin_within : Yields (Within a s) (execMin r m s) :=
  yields_bind fun _ _ => yields_bind fun _ _ => yields_bind fun _ stored =>
    yields_next (((Within.refl.store stored).skipIf _).overflowCall ..)

theorem execAdd_within : Yields (Within a s) (execAdd r m s) :=
  yields_bind fun _ _ => yields_bind fun _ _ => yields_next (Within.refl.setInt ..)

theorem execSub_within : Yields (Within a s) (execSub r m s) :=
  yields_bind fun _ _ => yields_bind fun _ _ => yields_next (Within.refl.setInt ..)

theorem execAnd_within : Yields (Within a s) (execAnd r m s) :=
  yields_bind fun _ _ => yields_bind fun _ _ => yields_next (Within.refl.setReg ..).next

theorem execLdr_within : Yields (Within a s) (execLdr r m s) :=
  yields_bind fun _ _ => yields_bind fun _ _ => yields_next (Within.refl.setReg ..).next

theorem execAdm_within : Yields (Within a s) (execAdm r m s) :=
  yields_bind fun _ _ => yields_bind fun _ _ => yields_bind fun _ stored =>
    yields_next ((Within.refl.store stored).next.overflowCall ..)

theorem execXmr_within : Yields (Within a s) (execXmr r m s) :=
  yields_bind fun _ _ => yields_bind fun _ _ => yields_bind fun _ stored =>
    yields_next ((Within.refl.store stored).setReg ..).next

theorem execStr_within : Yields (Within a s) (execStr r m s) :=
  yields_bind fun _ _ => yields_bind fun _ stored => yields_next (Within.refl.store stored).next

theorem execMpy_within (may : a.regOR = true) : Yields (Within a s) (execMpy r m s) :=
  yields_bind fun _ _ => yields_bind fun _ _ => yields_next (Within.refl.setProduct _ _ may)

theorem execDiv_within (may : a.regRR = true) : Yields (Within a s) (execDiv r m s) :=
  yields_bind fun _ _ => yields_bind fun _ _ => yields_next (Within.refl.setQuotient _ _ _ may)

theorem execLdd_within (fd : FDesignator) : Yields (Within a s) (execLdd fd m s) :=
  yields_bind fun _ _ => yields_bind fun _ _ => yields_next (Within.refl.setFD ..).next

theorem execStd_within (fd : FDesignator) : Yields (Within a s) (execStd fd m s) :=
  yields_bind fun _ _ => yields_bind fun _ stored => yields_next (Within.refl.store2 stored).next

theorem floatMemory_within (op : ArithOp) (p : Precision) (f : FReg) (ovf : a.ovf = true)
    (unf : a.unf = true) (taint : a.taint = true) :
    Yields (Within a s) (floatMemory op p f m s) :=
  yields_bind fun _ _ => yields_bind fun _ _ => yields_next
    ((Within.refl.setTaintedFreg _ _ _ taint).note _ (fun _ => ovf) fun _ => unf).next

end Memory

/-! ## Inter-register and argument instructions -/

section Register

variable {a : Permissions} (dr sra srb : Reg) (s : State)

theorem execStop_within (code : BitVec 18) : Yields (Within a s) (execStop code s) :=
  yields_next (Within.refl.monitorCall _)

theorem setReg_next_within (v : Word) : Yields (Within a s) (.next (s.setReg dr v).next) :=
  yields_next (Within.refl.setReg ..).next

theorem registerRead_within (e : ExtReg) : Yields (Within a s) (registerIO false dr sra e s) :=
  setReg_next_within ..

theorem registerWrite_within (e : ExtReg) (regOR : e = .overflow → a.regOR = true)
    (regRR : e = .remainder → a.regRR = true) :
    Yields (Within a s) (registerIO true dr sra e s) :=
  yields_next (Within.refl.setExt _ _ regOR regRR).next

theorem shiftDouble_within (l r : Bool) (sm : ShiftMode) (dfd srad : FDesignator) (sc : BitVec 6)
    (taint : a.taint = true) : Yields (Within a s) (shiftDouble l r sm dfd srad sc s) :=
  yields_next (Within.refl.setTaintedFD _ _ taint).next

theorem bitSkip_within (b : Bool) (bn : BitVec 5) : Yields (Within a s) (bitSkip b dr sra bn s) :=
  yields_next ((Within.refl.setReg ..).skipIf _)

/-- A convert to integer overflows at most (43_floating_numerics.md R340, R342). -/
theorem convert_event_ne_underflow (p : Precision) (round : Bool) (w : Nat) :
    (convert p round w).event ≠ .underflow := by
  unfold convert
  cases unpack p w with
  | none => simp [floatZero]
  | some u =>
    dsimp only
    repeat' split
    all_goals simp

theorem toInteger_within (p : Precision) (round : Bool) (f : FReg) (ovf : a.ovf = true) :
    Yields (Within a s) (toInteger p round dr f s) :=
  yields_next ((Within.refl.setReg ..).note _ (fun _ => ovf) fun event =>
    (convert_event_ne_underflow _ _ _ event).elim).next

theorem execFlod_within (f : FReg) : Yields (Within a s) (execFlod f sra s) :=
  yields_next (Within.refl.setFD ..).next

theorem addSubCarry_within (sc ac subtract : Bool) (cb : sc = true → a.cb = true) :
    Yields (Within a s) (addSubCarry sc ac subtract dr sra srb s) := by
  have carry (c : Bool) : Within a s { s with cb := if sc then c else s.cb } :=
    Within.refl.update (cb := by cases sc <;> simp_all)
  exact yields_next (((carry _).setReg ..).next.overflowCall ..)

theorem multiply_within (may : a.regOR = true) : Yields (Within a s) (mulDiv false dr sra srb s) :=
  yields_next (Within.refl.setProduct _ _ may)

theorem divide_within (may : a.regRR = true) : Yields (Within a s) (mulDiv true dr sra srb s) :=
  yields_next (Within.refl.setQuotient _ _ _ may)

theorem floatRegister_within (op : ArithOp) (p : Precision) (df : FReg) (x y : FDesignator)
    (ovf : a.ovf = true) (unf : a.unf = true) (taint : a.taint = true) :
    Yields (Within a s) (floatRegister op p df x y s) :=
  yields_next ((Within.refl.setTaintedFreg _ _ _ taint).note _ (fun _ => ovf) fun _ => unf).next

theorem integerSkip_within (rl : Relation) (subtract : Bool) :
    Yields (Within a s) (integerSkip rl subtract dr sra srb s) :=
  yields_next (((Within.refl.setReg ..).skipIf _).overflowCall ..)

theorem floatSkip_within (rl : Relation) (subtract : Bool) (p : Precision) (df : FReg)
    (x y : FDesignator) (ovf : a.ovf = true) (unf : a.unf = true) (taint : a.taint = true) :
    Yields (Within a s) (floatSkip rl subtract p df x y s) :=
  yields_next
    (((Within.refl.setTaintedFreg _ _ _ taint).note _ (fun _ => ovf) fun _ => unf).skipIf _)

theorem directArith_within (af : DirectArith) (x : BitVec 16) :
    Yields (Within a s) (directArith af dr x s) :=
  yields_next (Within.refl.setInt ..)

theorem directSkip_within (cm : Bool) (rl : Relation) (x : BitVec 16) :
    Yields (Within a s) (directSkip cm rl dr x s) :=
  yields_next (Within.refl.skipIf _)

end Register

/-! ## Every instruction -/

/-- An instruction other than EXC stays within its permissions: a mnemonic has the meaning of its
parent row, and needs what that meaning needs. -/
theorem exec_within (i : Instr) (s : State) (h : isExc i = false) :
    Yields (Within (permissions i) s) (exec i s) := by
  cases i
  case exc => cases h
  case rtj => exact execRtj_within ..
  case min => exact execMin_within ..
  case crg | crl | cre | crd => exact compareSkip_within ..
  case jrp | jrn | jrz | jrf => exact jumpOn_within ..
  case jpm | jnm | jzm | jfm => exact modifyJump_within ..
  case add => exact execAdd_within ..
  case sub => exact execSub_within ..
  case and => exact execAnd_within ..
  case ldr => exact execLdr_within ..
  case adm => exact execAdm_within ..
  case xmr => exact execXmr_within ..
  case str => exact execStr_within ..
  case mpy => exact execMpy_within _ _ _ rfl
  case div => exact execDiv_within _ _ _ rfl
  case ldd => exact execLdd_within ..
  case std => exact execStd_within ..
  case fad | fadd | fsb | fsbd | fmu | fmud | fdv | fdvd =>
    exact floatMemory_within _ _ _ _ _ rfl rfl rfl
  case fc21 | rfc11 => exact yields_refused _
  case stop => exact execStop_within ..
  case rio write dr sra _ =>
    cases write with
    | false => exact registerRead_within dr sra ..
    | true => exact registerWrite_within dr sra _ _ (fun e => e ▸ rfl) fun e => e ▸ rfl
  case rin _ unused _ => exact registerRead_within _ unused ..
  case rout unused _ _ =>
    exact registerWrite_within unused _ _ _ (fun e => e ▸ rfl) fun e => e ▸ rfl
  case shr | slr | srr | sla | sra | sll | srl => exact setReg_next_within ..
  case shd | slrd | srrd | slad | srad | slld | srld => exact shiftDouble_within _ _ _ _ _ _ _ rfl
  case bst | bcm | bcl => exact setReg_next_within ..
  case bsz | bso => exact bitSkip_within ..
  case fix | fir | fixd | fird => exact toInteger_within _ _ _ _ _ rfl
  case flo => exact setReg_next_within ..
  case flod => exact execFlod_within ..
  case lro | szr | rnd | rnda | rndb | rxo | rxoa | rxob | ror | rora | rorb =>
    exact setReg_next_within ..
  case iroAddSub => exact addSubCarry_within _ _ _ _ _ _ _ (by rintro rfl; rfl)
  case rad | rsb => exact addSubCarry_within _ _ _ _ _ _ _ nofun
  case iroMulDiv divide _ _ _ =>
    cases divide with
    | false => exact multiply_within _ _ _ _ rfl
    | true => exact divide_within _ _ _ _ rfl
  case rmu => exact multiply_within _ _ _ _ rfl
  case rdv => exact divide_within _ _ _ _ rfl
  case fro | raf | rsf | rmf | rdf | rafd | rsfd | rmfd | rdfd =>
    exact floatRegister_within _ _ _ _ _ _ rfl rfl rfl
  case irs | sgr | asg | sle | asl | seq | ase | sue | asu => exact integerSkip_within ..
  case frs | sgf | asgf | slf | aslf | sef | asef | suf | asuf | sgd | agfd | sld | alfd | sed
      | aefd | sud | aufd =>
    exact floatSkip_within _ _ _ _ _ _ _ rfl rfl rfl
  case dlr | dlrClear | xora | anda | ora => exact setReg_next_within ..
  case dar | seta | seca | adda | adca => exact directArith_within ..
  case dsk | ddp | ddn | ddz | ddf | dsp | dsn | dsz | dsf => exact directSkip_within ..

/-! ## EXC -/

/-- The word that an EXC executes (40_memory_reference.md R139). -/
def excWord (form : ExcForm) (x b : BitVec 4) (d : BitVec 12) (s : State) : Res Word := do
  let ea ← s.effAddr ⟨false, x, b, d⟩
  match form with
  | .memory => s.load .read ea
  | .immediate => return ea

theorem execExc_of_error {form : ExcForm} {x b : BitVec 4} {d : BitVec 12} {s : State} {e : Halt}
    (h : excWord form x b d s = .error e) : execExc form x b d s = deliver (.error e) := by
  cases form <;> simp_all only [excWord, execExc]

theorem execExc_of_ok {form : ExcForm} {x b : BitVec 4} {d : BitVec 12} {s : State} {w : Word}
    (h : excWord form x b d s = .ok w) : execExc form x b d s = executeWord w s := by
  cases form <;> simp_all only [excWord, execExc]

theorem execTarget_of_not_exc {i : Instr} (h : isExc i = false) (s : State) :
    execTarget i s = exec i s := by
  cases i
  case exc => cases h
  all_goals rfl

/-- A word is refused in every state, or it executes in every state the instruction it decodes to,
which is no EXC (40_memory_reference.md R139). -/
theorem executeWord_cases (w : Word) :
    (∃ r, ∀ s, executeWord w s = .refused r) ∨
      ∃ j, isExc j = false ∧ decodeWord w = .ok j ∧
        ∀ s, executeWord w s = exec j { s with ir := w } := by
  by_cases field : fieldFC w = 2#5
  · exact .inl ⟨.excOfExc, fun s => if_pos field⟩
  cases decoded : decodeWord w with
  | error u => exact .inl ⟨.undefinedWord u, fun s => by simp [executeWord, field, decoded]⟩
  | ok j =>
    have runs (s : State) : executeWord w s = execTarget j { s with ir := w } := by
      simp [executeWord, field, decoded]
    cases isexc : isExc j with
    | false => exact .inr ⟨j, isexc, rfl, fun s => (runs s).trans (execTarget_of_not_exc isexc _)⟩
    | true =>
      cases j
      case exc => exact .inl ⟨.excOfExc, runs⟩
      all_goals cases isexc

/-- The word that an EXC executes is the one whose instruction it counts as. -/
theorem executed_exc {form : ExcForm} {x b : BitVec 4} {d : BitVec 12} {s : State} {w : Word}
    {j : Instr} (word : excWord form x b d s = .ok w) (decoded : decodeWord w = .ok j) :
    executed (.exc form x b d) s = j := by
  obtain ⟨ea, addressed, reached⟩ := bind_ok_iff.mp word
  cases form with
  | memory =>
    obtain ⟨_, rfl⟩ := load_ok_iff.mp reached
    simp [executed, addressed, decoded]
  | immediate =>
    cases reached
    simp [executed, addressed, decoded]

/-- A next state comes from the instruction that `i` counts as, itself no EXC, with a word in IR. -/
theorem exec_next_executed {i : Instr} {s t : State} (h : exec i s = .next t) :
    isExc (executed i s) = false ∧ ∃ w, exec (executed i s) { s with ir := w } = .next t := by
  cases isexc : isExc i with
  | false =>
    rw [executed_of_not_exc isexc]
    exact ⟨isexc, s.ir, h⟩
  | true =>
    cases i
    case exc form x b d =>
      change execExc form x b d s = .next t at h
      cases word : excWord form x b d s with
      | error e =>
        rw [execExc_of_error word] at h
        exact nomatch deliver_next_iff.mp h
      | ok w =>
        rw [execExc_of_ok word] at h
        obtain ⟨r, refused⟩ | ⟨j, other, decoded, runs⟩ := executeWord_cases w
        · exact nomatch (refused s).symm.trans h
        · rw [executed_exc word decoded]
          exact ⟨other, w, (runs s).symm.trans h⟩
    all_goals cases isexc

/-- Every instruction, EXC included, stays within the permissions of the instruction it counts as,
from the state in which that one has its word in IR. -/
theorem exec_within_executed {i : Instr} {s t : State} (h : exec i s = .next t) :
    ∃ w, Within (permissions (executed i s)) { s with ir := w } t := by
  obtain ⟨other, w, runs⟩ := exec_next_executed h
  exact ⟨w, (exec_within _ _ other).of_next t runs⟩

/-! ## The obligations -/

/-- Settles O55: stickiness from the permissions of the instruction executed, the rest from those of
the instruction itself. -/
theorem flagsSticky : Obligations.FlagsSticky := by
  intro i s t ht
  obtain ⟨w, executes⟩ := exec_within_executed ht
  refine ⟨executes.ovf_sticky, executes.unf_sticky, fun noExc noFloat => ?_⟩
  have direct := (exec_within i s noExc).of_next t ht
  exact ⟨direct.unf_eq noFloat, fun noConvert =>
    direct.ovf_eq (by simp [permissions, noFloat, noConvert])⟩

/-- Settles O57, likewise. -/
theorem stateWriters : Obligations.StateWriters := by
  intro i s t ht
  obtain ⟨w, executes⟩ := exec_within_executed ht
  refine ⟨executes.params, fun noExc => ?_⟩
  have direct := (exec_within i s noExc).of_next t ht
  refine ⟨direct.ir, direct.regOR, direct.regRR, fun b after before => ?_⟩
  have may : (permissions i).taint = true :=
    (direct.taint b after).resolve_left (by simp [before])
  simpa [permissions] using may

end Sys2Proof.Machine
end

section
/-! PROOFS. CB takes no part in any instruction but IRO (10_state.md R33): every reading and every update
of the state goes through an exchange of CB, so each meaning does, and then every instruction. -/

namespace Sys2Proof.Machine

/-! ## CB exchanged -/

/-- The state with another carry bit. -/
def State.withCB (s : State) (c : Bool) : State :=
  { s with cb := c }

/-- The outcome with its next state replaced. -/
def mapNext (g : State → State) : Outcome → Outcome
  | .next t => .next (g t)
  | .fault f => .fault f
  | .refused r => .refused r

section Exchange

variable (s : State) (c : Bool)

@[simp] theorem withCB_cb : (s.withCB c).cb = c := rfl

@[simp] theorem withCB_withCB (d : Bool) : (s.withCB c).withCB d = s.withCB d := rfl

/-! ### What is read -/

@[simp] theorem withCB_pc : (s.withCB c).pc = s.pc := rfl

@[simp] theorem withCB_params : (s.withCB c).params = s.params := rfl

@[simp] theorem withCB_reg (r : Reg) : (s.withCB c).reg r = s.reg r := rfl

@[simp] theorem withCB_ext (e : ExtReg) : (s.withCB c).ext e = s.ext e := by
  cases e <;> rfl

@[simp] theorem withCB_fd (f : FReg) : (s.withCB c).fd f = s.fd f := rfl

@[simp] theorem withCB_freg (p : Precision) (f : FReg) : (s.withCB c).freg p f = s.freg p f := rfl

@[simp] theorem withCB_tested (r : Reg) (v : Word) : (s.withCB c).tested r v = s.tested r v := rfl

@[simp] theorem withCB_testedFreg (p : Precision) (f : FReg) (v : Nat) :
    (s.withCB c).testedFreg p f v = s.testedFreg p f v := rfl

@[simp] theorem withCB_load (k : Access) (p : Word) : (s.withCB c).load k p = s.load k p := rfl

@[simp] theorem withCB_load2 (p : Word) : (s.withCB c).load2 p = s.load2 p := rfl

@[simp] theorem withCB_loadFloat (q : Precision) (p : Word) :
    (s.withCB c).loadFloat q p = s.loadFloat q p := rfl

@[simp] theorem withCB_address (b x : BitVec 4) (d : Word) :
    (s.withCB c).address b x d = s.address b x d := rfl

theorem withCB_indirect (n : Nat) (p : Word) : (s.withCB c).indirect n p = s.indirect n p := by
  induction n generalizing p with
  | zero => rfl
  | succ n ih => simp only [State.indirect, withCB_load, withCB_address, ih]

@[simp] theorem withCB_effAddr (m : MemRef) : (s.withCB c).effAddr m = s.effAddr m := by
  simp only [State.effAddr, withCB_address, withCB_indirect]

/-! ### What is updated -/

@[simp] theorem withCB_next : (s.withCB c).next = s.next.withCB c := rfl

@[simp] theorem withCB_jump (p : Word) : (s.withCB c).jump p = (s.jump p).withCB c := rfl

@[simp] theorem withCB_skipIf (x : Bool) : (s.withCB c).skipIf x = (s.skipIf x).withCB c := by
  cases x <;> rfl

@[simp] theorem withCB_jumpIf (x : Bool) (p : Word) :
    (s.withCB c).jumpIf x p = (s.jumpIf x p).withCB c := by
  cases x <;> rfl

@[simp] theorem withCB_monitorCall (k : StopCause) :
    (s.withCB c).monitorCall k = (s.monitorCall k).withCB c := rfl

@[simp] theorem withCB_overflowCall (p : Word) (o : Bool) :
    (s.withCB c).overflowCall p o = (s.overflowCall p o).withCB c := by
  simp only [State.overflowCall, withCB_params]
  split <;> rfl

@[simp] theorem withCB_note (e : FloatEvent) : (s.withCB c).note e = (s.note e).withCB c := by
  cases e <;> rfl

@[simp] theorem withCB_setExt (e : ExtReg) (v : Word) :
    (s.withCB c).setExt e v = (s.setExt e v).withCB c := by
  cases e <;> rfl

@[simp] theorem withCB_writeReg (r : Reg) (v : Word) (x : Bool) :
    (s.withCB c).writeReg r v x = (s.writeReg r v x).withCB c := by
  unfold State.writeReg
  split <;> rfl

@[simp] theorem withCB_setReg (r : Reg) (v : Word) :
    (s.withCB c).setReg r v = (s.setReg r v).withCB c :=
  withCB_writeReg ..

@[simp] theorem withCB_setTaintedReg (r : Reg) (v : Word) :
    (s.withCB c).setTaintedReg r v = (s.setTaintedReg r v).withCB c :=
  withCB_writeReg ..

@[simp] theorem withCB_setFD (f : FReg) (v : DWord) :
    (s.withCB c).setFD f v = (s.setFD f v).withCB c := by
  simp [State.setFD]

@[simp] theorem withCB_setTaintedFD (f : FReg) (v : DWord) :
    (s.withCB c).setTaintedFD f v = (s.setTaintedFD f v).withCB c := by
  simp [State.setTaintedFD]

@[simp] theorem withCB_setTaintedFreg (p : Precision) (f : FReg) (v : Nat) :
    (s.withCB c).setTaintedFreg p f v = (s.setTaintedFreg p f v).withCB c := by
  cases p with
  | single => exact withCB_setTaintedReg ..
  | double => exact withCB_setTaintedFD ..

@[simp] theorem withCB_setInt (r : Reg) (v : Int) :
    (s.withCB c).setInt r v = (s.setInt r v).withCB c := by
  simp [State.setInt]

@[simp] theorem withCB_setProduct (r : Reg) (v : Int) :
    (s.withCB c).setProduct r v = (s.setProduct r v).withCB c := by
  simp [setProduct_eq]

@[simp] theorem withCB_setQuotient (r : Reg) (n d : Word) :
    (s.withCB c).setQuotient r n d = (s.setQuotient r n d).withCB c := by
  simp [setQuotient_eq]

@[simp] theorem withCB_store (p v : Word) :
    (s.withCB c).store p v = (·.withCB c) <$> s.store p v := by
  obtain inside | outside := Nat.lt_or_ge p.toNat s.params.memWords
  · rw [store_inside v inside, store_inside (s := s.withCB c) v inside]
    rfl
  · rw [store_outside v outside, store_outside (s := s.withCB c) v outside]
    rfl

@[simp] theorem withCB_store2 (p hi lo : Word) :
    (s.withCB c).store2 p hi lo = (·.withCB c) <$> s.store2 p hi lo := by
  simp [State.store2]

end Exchange

/-! ## Meanings that ignore CB -/

@[simp] theorem mapNext_deliver (g : State → State) (x : Res State) :
    mapNext g (deliver x) = deliver (g <$> x) := by
  cases x with
  | ok t => rfl
  | error e => cases e <;> rfl

/-- With another CB the meaning answers the same, but for that CB. -/
structure IgnoresCB (f : State → Outcome) : Prop where
  withCB : ∀ s c, f (s.withCB c) = mapNext (·.withCB c) (f s)

theorem ignoresCB_next {g : State → State} (h : ∀ s c, g (s.withCB c) = (g s).withCB c) :
    IgnoresCB fun s => .next (g s) where
  withCB s c := congrArg Host.Outcome.next (h s c)

theorem ignoresCB_refused (r : Refusal) : IgnoresCB fun _ => .refused r where
  withCB _ _ := rfl

/-- Most register instructions write one register with a value that other parts than CB give. -/
theorem setReg_next_ignoresCB (dr : Reg) (g : State → Word) (h : ∀ s c, g (s.withCB c) = g s) :
    IgnoresCB fun s => .next (s.setReg dr (g s)).next :=
  ignoresCB_next fun s c => by simp [h s c]

/-! ### Memory reference instructions -/

section Memory

variable (r : Reg) (m : MemRef)

theorem execRtj_ignoresCB : IgnoresCB (execRtj r m) where
  withCB s c := by simp [execRtj]

theorem jumpOn_ignoresCB (rl : Relation) : IgnoresCB (jumpOn rl r m) where
  withCB s c := by simp [jumpOn]

theorem modifyJump_ignoresCB (rl : Relation) (q : BitVec 4) : IgnoresCB (modifyJump rl q m) where
  withCB s c := by simp [modifyJump]

theorem compareSkip_ignoresCB (rl : Relation) : IgnoresCB (compareSkip rl r m) where
  withCB s c := by simp [compareSkip]

theorem execMin_ignoresCB : IgnoresCB (execMin r m) where
  withCB s c := by simp [execMin]

theorem execAdd_ignoresCB : IgnoresCB (execAdd r m) where
  withCB s c := by simp [execAdd]

theorem execSub_ignoresCB : IgnoresCB (execSub r m) where
  withCB s c := by simp [execSub]

theorem execAnd_ignoresCB : IgnoresCB (execAnd r m) where
  withCB s c := by simp [execAnd]

theorem execLdr_ignoresCB : IgnoresCB (execLdr r m) where
  withCB s c := by simp [execLdr]

theorem execAdm_ignoresCB : IgnoresCB (execAdm r m) where
  withCB s c := by simp [execAdm]

theorem execXmr_ignoresCB : IgnoresCB (execXmr r m) where
  withCB s c := by simp [execXmr]

theorem execStr_ignoresCB : IgnoresCB (execStr r m) where
  withCB s c := by simp [execStr]

theorem execMpy_ignoresCB : IgnoresCB (execMpy r m) where
  withCB s c := by simp [execMpy]

theorem execDiv_ignoresCB : IgnoresCB (execDiv r m) where
  withCB s c := by simp [execDiv]

theorem execLdd_ignoresCB (fd : FDesignator) : IgnoresCB (execLdd fd m) where
  withCB s c := by simp [execLdd]

theorem execStd_ignoresCB (fd : FDesignator) : IgnoresCB (execStd fd m) where
  withCB s c := by simp [execStd]

theorem floatMemory_ignoresCB (op : ArithOp) (p : Precision) (f : FReg) :
    IgnoresCB (floatMemory op p f m) where
  withCB s c := by simp [floatMemory]

end Memory

/-! ### Inter-register and argument instructions -/

section Register

variable (dr sra srb : Reg)

theorem execStop_ignoresCB (code : BitVec 18) : IgnoresCB (execStop code) :=
  ignoresCB_next fun _ _ => rfl

theorem registerIO_ignoresCB (write : Bool) (e : ExtReg) :
    IgnoresCB (registerIO write dr sra e) := by
  cases write with
  | false => exact setReg_next_ignoresCB _ _ fun s c => withCB_ext s c e
  | true => exact ignoresCB_next fun s c => by simp

theorem shiftDouble_ignoresCB (l r : Bool) (sm : ShiftMode) (dfd srad : FDesignator)
    (sc : BitVec 6) : IgnoresCB (shiftDouble l r sm dfd srad sc) :=
  ignoresCB_next fun s c => by simp

theorem bitSkip_ignoresCB (b : Bool) (bn : BitVec 5) : IgnoresCB (bitSkip b dr sra bn) :=
  ignoresCB_next fun s c => by simp

theorem toInteger_ignoresCB (p : Precision) (round : Bool) (f : FReg) :
    IgnoresCB (toInteger p round dr f) :=
  ignoresCB_next fun s c => by simp

theorem execFlod_ignoresCB (f : FReg) : IgnoresCB (execFlod f sra) :=
  ignoresCB_next fun s c => by simp

theorem mulDiv_ignoresCB (divide : Bool) : IgnoresCB (mulDiv divide dr sra srb) := by
  cases divide with
  | false => exact ignoresCB_next fun _ _ => withCB_setProduct ..
  | true => exact ignoresCB_next fun _ _ => withCB_setQuotient ..

theorem floatRegister_ignoresCB (op : ArithOp) (p : Precision) (df : FReg) (x y : FDesignator) :
    IgnoresCB (floatRegister op p df x y) :=
  ignoresCB_next fun s c => by simp

theorem integerSkip_ignoresCB (rl : Relation) (subtract : Bool) :
    IgnoresCB (integerSkip rl subtract dr sra srb) :=
  ignoresCB_next fun s c => by simp

theorem floatSkip_ignoresCB (rl : Relation) (subtract : Bool) (p : Precision) (df : FReg)
    (x y : FDesignator) : IgnoresCB (floatSkip rl subtract p df x y) :=
  ignoresCB_next fun s c => by simp

theorem directArith_ignoresCB (af : DirectArith) (a : BitVec 16) :
    IgnoresCB (directArith af dr a) :=
  ignoresCB_next fun _ _ => withCB_setInt ..

theorem directSkip_ignoresCB (cm : Bool) (rl : Relation) (a : BitVec 16) :
    IgnoresCB (directSkip cm rl dr a) :=
  ignoresCB_next fun _ _ => withCB_skipIf ..

/-- IRO add and subtract without ACf: CB takes no part in the sum, and may be written last
(41_inter_register.md R253, R254). -/
theorem addSubCarry_eq (sc subtract : Bool) (s : State) :
    addSubCarry sc false subtract dr sra srb s =
      .next (((s.setReg dr
        ((carryResult subtract (s.reg sra) (s.reg srb) false).extractLsb' 0 32)).next.overflowCall s.pc
          (intOverflow (carryTrue subtract (s.reg sra) (s.reg srb) false))).withCB
            (if sc then (carryResult subtract (s.reg sra) (s.reg srb) false).getLsbD 32 else s.cb)) := by
  simp only [← withCB_overflowCall, ← withCB_next, ← withCB_setReg]
  rfl

theorem addSubCarry_withCB (sc subtract : Bool) (s : State) (c : Bool) :
    addSubCarry sc false subtract dr sra srb (s.withCB c) =
      mapNext (fun t => t.withCB (if sc then t.cb else c))
        (addSubCarry sc false subtract dr sra srb s) := by
  cases sc <;> simp [addSubCarry_eq, mapNext]

theorem addSubCarry_ignoresCB (subtract : Bool) :
    IgnoresCB (addSubCarry false false subtract dr sra srb) where
  withCB := addSubCarry_withCB dr sra srb false subtract

end Register

/-! ## Every instruction -/

/-- An instruction other than EXC and IRO add and subtract ignores CB. -/
theorem exec_ignoresCB (i : Instr) (noExc : isExc i = false) (writes : writesCB i = false)
    (reads : readsCB i = false) : IgnoresCB (exec i) := by
  cases i
  case exc => cases noExc
  case rtj => exact execRtj_ignoresCB ..
  case min => exact execMin_ignoresCB ..
  case crg | crl | cre | crd => exact compareSkip_ignoresCB ..
  case jrp | jrn | jrz | jrf => exact jumpOn_ignoresCB ..
  case jpm | jnm | jzm | jfm => exact modifyJump_ignoresCB ..
  case add => exact execAdd_ignoresCB ..
  case sub => exact execSub_ignoresCB ..
  case and => exact execAnd_ignoresCB ..
  case ldr => exact execLdr_ignoresCB ..
  case adm => exact execAdm_ignoresCB ..
  case xmr => exact execXmr_ignoresCB ..
  case str => exact execStr_ignoresCB ..
  case mpy => exact execMpy_ignoresCB ..
  case div => exact execDiv_ignoresCB ..
  case ldd => exact execLdd_ignoresCB ..
  case std => exact execStd_ignoresCB ..
  case fad | fadd | fsb | fsbd | fmu | fmud | fdv | fdvd => exact floatMemory_ignoresCB ..
  case fc21 | rfc11 => exact ignoresCB_refused _
  case stop => exact execStop_ignoresCB ..
  case rio => exact registerIO_ignoresCB ..
  case rin _ unused _ => exact registerIO_ignoresCB (sra := unused) (write := false) ..
  case rout unused _ _ => exact registerIO_ignoresCB (dr := unused) (write := true) ..
  case shr | slr | srr | sla | sra | sll | srl => exact setReg_next_ignoresCB _ _ fun _ _ => rfl
  case shd | slrd | srrd | slad | srad | slld | srld => exact shiftDouble_ignoresCB ..
  case bst | bcm | bcl => exact setReg_next_ignoresCB _ _ fun _ _ => rfl
  case bsz | bso => exact bitSkip_ignoresCB ..
  case fix | fir | fixd | fird => exact toInteger_ignoresCB ..
  case flo => exact setReg_next_ignoresCB _ _ fun _ _ => rfl
  case flod => exact execFlod_ignoresCB ..
  case lro | szr | rnd | rnda | rndb | rxo | rxoa | rxob | ror | rora | rorb =>
    exact setReg_next_ignoresCB _ _ fun _ _ => rfl
  case iroMulDiv => exact mulDiv_ignoresCB ..
  case rmu => exact mulDiv_ignoresCB (divide := false) ..
  case rdv => exact mulDiv_ignoresCB (divide := true) ..
  case fro | raf | rsf | rmf | rdf | rafd | rsfd | rmfd | rdfd => exact floatRegister_ignoresCB ..
  case irs | sgr | asg | sle | asl | seq | ase | sue | asu => exact integerSkip_ignoresCB ..
  case frs | sgf | asgf | slf | aslf | sef | asef | suf | asuf | sgd | agfd | sld | alfd | sed
      | aefd | sud | aufd =>
    exact floatSkip_ignoresCB ..
  case dlr | dlrClear | xora | anda | ora => exact setReg_next_ignoresCB _ _ fun _ _ => rfl
  case dar | seta | seca | adda | adca => exact directArith_ignoresCB ..
  case dsk | ddp | ddn | ddz | ddf | dsp | dsn | dsz | dsf => exact directSkip_ignoresCB ..
  case rad | rsb => exact addSubCarry_ignoresCB ..
  case iroAddSub sc ac _ _ _ _ =>
    cases sc with
    | true => cases writes
    | false =>
      cases ac with
      | true => cases reads
      | false => exact addSubCarry_ignoresCB ..

/-- An instruction that does not read CB answers the same whatever CB holds, but for the CB that it does
not write. -/
theorem exec_withCB {i : Instr} (noExc : isExc i = false) (reads : readsCB i = false) (s : State)
    (c : Bool) : exec i (s.withCB c) =
      mapNext (fun t => t.withCB (if writesCB i then t.cb else c)) (exec i s) := by
  cases writes : writesCB i with
  | false => exact (exec_ignoresCB i noExc writes reads).withCB s c
  | true =>
    cases i
    case iroAddSub sc ac _ _ _ _ =>
      cases sc with
      | false => cases writes
      | true =>
        cases ac with
        | true => cases reads
        | false => exact addSubCarry_withCB ..
    all_goals cases writes

/-! ## EXC -/

theorem excWord_withCB (form : ExcForm) (x b : BitVec 4) (d : BitVec 12) (s : State) (c : Bool) :
    excWord form x b d (s.withCB c) = excWord form x b d s := by
  simp [excWord]

/-- An EXC treats CB as the instruction that it counts as does (40_memory_reference.md R139). -/
theorem execExc_withCB {form : ExcForm} {x b : BitVec 4} {d : BitVec 12} {s : State}
    (reads : readsCB (executed (.exc form x b d) s) = false) (c : Bool) :
    execExc form x b d (s.withCB c) =
      mapNext (fun t => t.withCB (if writesCB (executed (.exc form x b d) s) then t.cb else c))
        (execExc form x b d s) := by
  cases word : excWord form x b d s with
  | error e =>
    rw [execExc_of_error word, execExc_of_error ((excWord_withCB ..).trans word), mapNext_deliver]
    rfl
  | ok w =>
    rw [execExc_of_ok word, execExc_of_ok ((excWord_withCB ..).trans word)]
    obtain ⟨r, refused⟩ | ⟨j, other, decoded, runs⟩ := executeWord_cases w
    · rw [refused, refused]
      rfl
    · rw [executed_exc word decoded] at reads ⊢
      rw [runs, runs]
      exact exec_withCB other reads { s with ir := w } c

/-! ## The obligation -/

/-- Settles O56: the write from the permissions of the instruction executed, the reading from the exchange
of CB. -/
theorem carryBit : Obligations.CarryBit := by
  intro i s j
  refine ⟨fun t writes ht => ?_, fun reads c => ?_⟩
  · obtain ⟨w, executes⟩ := exec_within_executed ht
    exact executes.cb writes
  · have exchange : exec i (s.withCB c) =
        mapNext (fun t => t.withCB (if writesCB j then t.cb else c)) (exec i s) := by
      cases isexc : isExc i with
      | false =>
        have own : j = i := executed_of_not_exc isexc s
        rw [own] at reads ⊢
        exact exec_withCB isexc reads s c
      | true =>
        cases i
        case exc => exact execExc_withCB reads c
        all_goals cases isexc
    refine exchange.trans ?_
    cases exec i s <;> rfl

end Sys2Proof.Machine
end

section
/-! PROOFS. What an instruction does to memory and to the next-instruction buffer (20_memory.md R62, R65,
R75): it stores to its words, then moves P. The rule of each update comes first, then one lemma per shared
meaning, then every instruction, and last the step (R60, R61). -/

namespace Sys2Proof.Machine

/-! ## The cells behind GR_0 -/

theorem writeReg_cellZero (s : State) (r : Reg) (v : Word) (x : Bool) :
    (s.writeReg r v x).regs[0] = s.regs[0] := by
  unfold State.writeReg
  split
  · rfl
  · next other =>
    exact Vector.getElem_set_ne r.isLt _ fun e => other (BitVec.eq_of_toNat_eq e)

theorem writeReg_taintZero (s : State) (r : Reg) (v : Word) (x : Bool) :
    (s.writeReg r v x).taint[0] = s.taint[0] := by
  unfold State.writeReg taintAfter
  split
  · rfl
  · next other =>
    split
    · next low => exact Vector.getElem_set_ne low _ fun e => other (BitVec.eq_of_toNat_eq e)
    · rfl

/-! ## The words stored to -/

theorem succ_ne_self (a : Word) : a + 1 ≠ a := by bv_omega

/-- From `s` to `t` memory is stored to at the word addresses `ws` only, which lie inside MEM_WORDS, and
keeps its canonical form; the cells behind GR_0 and the parameters stay. -/
structure StoresTo (ws : List Word) (s t : State) : Prop where
  params : t.params = s.params
  wf : s.mem.wf = true → t.mem.wf = true
  listed : ∀ c ∈ t.mem, c ∈ s.mem ∨ c.1 / 4 < s.params.memWords
  bytes : ∀ x : Nat, (∀ a ∈ ws, x / 4 ≠ a.toNat) → t.mem.readByte x = s.mem.readByte x
  cellZero : t.regs[0] = s.regs[0]
  taintZero : t.taint[0] = s.taint[0]

/-- The buffer of an instruction begun in `s` that has stored to `ws`: the old word of P + 1 if that is one
of them (20_memory.md R75). -/
def bufferAfter (ws : List Word) (s : State) : Option NextBuffer :=
  if s.pc + 1 ∈ ws then some ⟨s.pc + 1, s.mem.readWord (s.pc + 1).toNat⟩ else s.nib

/-- An instruction begun in `s` has stored to `ws`, and has yet to move P. -/
structure Pending (ws : List Word) (s t : State) : Prop extends StoresTo ws s t where
  pc : t.pc = s.pc
  nib : t.nib = bufferAfter ws s

/-- An instruction begun in `s` has stored to `ws` and moved P: what it buffered stays for P + 1 only. -/
structure Completes (ws : List Word) (s t : State) : Prop extends StoresTo ws s t where
  nib : s.nib = none → t.nib = if t.pc = s.pc + 1 then bufferAfter ws s else none

theorem bufferAfter_nil (s : State) : bufferAfter [] s = s.nib :=
  if_neg List.not_mem_nil

theorem bufferAfter_of_mem {ws : List Word} {s : State} (h : s.pc + 1 ∈ ws) :
    bufferAfter ws s = some ⟨s.pc + 1, s.mem.readWord (s.pc + 1).toNat⟩ :=
  if_pos h

theorem bufferAfter_of_not_mem {ws : List Word} {s : State} (h : s.pc + 1 ∉ ws) :
    bufferAfter ws s = s.nib :=
  if_neg h

namespace StoresTo

variable {ws : List Word} {s t u : State}

theorem refl : StoresTo [] s s where
  params := rfl
  wf := id
  listed _ := .inl
  bytes _ _ := rfl
  cellZero := rfl
  taintZero := rfl

theorem trans {vs : List Word} (h : StoresTo ws s t) (k : StoresTo vs t u) :
    StoresTo (ws ++ vs) s u where
  params := k.params.trans h.params
  wf canonical := k.wf (h.wf canonical)
  listed c listed := (k.listed c listed).elim (h.listed c) fun inside => .inr (h.params ▸ inside)
  bytes x outside :=
    (k.bytes x fun a written => outside a (List.mem_append_right _ written)).trans
      (h.bytes x fun a written => outside a (List.mem_append_left _ written))
  cellZero := k.cellZero.trans h.cellZero
  taintZero := k.taintZero.trans h.taintZero

theorem store {p v : Word} (stored : s.store p v = .ok t) : StoresTo [p] s t := by
  obtain ⟨inside, rfl⟩ := store_ok_iff.mp stored
  exact {
    params := rfl
    wf := writeWord_wf _ _
    listed := fun c listed => (mem_writeWord listed).elim (fun e => .inr (e ▸ inside)) .inl
    bytes := fun x outside => readByte_writeWord_ne _ _ (outside p (List.mem_singleton_self p))
    cellZero := rfl
    taintZero := rfl }

theorem store2 {p hi lo : Word} (stored : s.store2 p hi lo = .ok t) : StoresTo [p, p + 1] s t := by
  obtain ⟨_, first, second⟩ := store2_ok_iff.mp stored
  exact (store first).trans (store second)

/-- A word that is not stored to keeps its content. -/
theorem readWord_eq (h : StoresTo ws s t) {p : Word} (other : p ∉ ws) :
    t.mem.readWord p.toNat = s.mem.readWord p.toNat := by
  have same (k : Nat) (hk : k < 4) :
      t.mem.readByte (4 * p.toNat + k) = s.mem.readByte (4 * p.toNat + k) := by
    refine h.bytes _ fun a written e => other ?_
    rwa [show p = a from BitVec.eq_of_toNat_eq (by omega)]
  unfold Memory.readWord
  rw [same 1 (by decide), same 2 (by decide), same 3 (by decide)]
  exact congrArg (wordOfBytes · _ _ _) (same 0 (by decide))

end StoresTo

/-! ## The rule of each update before P moves -/

namespace Pending

variable {ws : List Word} {s t u : State}

theorem refl : Pending [] s s where
  toStoresTo := .refl
  pc := rfl
  nib := (bufferAfter_nil s).symm

/-- One more update that leaves memory, P and the buffer alone. -/
theorem update (h : Pending ws s t) (mem : u.mem = t.mem := by simp)
    (params : u.params = t.params := by simp) (cellZero : u.regs[0] = t.regs[0] := by simp)
    (taintZero : u.taint[0] = t.taint[0] := by simp) (pc : u.pc = t.pc := by simp)
    (nib : u.nib = t.nib := by simp) : Pending ws s u where
  params := params.trans h.params
  wf := mem ▸ h.wf
  listed := mem ▸ h.listed
  bytes := mem ▸ h.bytes
  cellZero := cellZero.trans h.cellZero
  taintZero := taintZero.trans h.taintZero
  pc := pc.trans h.pc
  nib := nib.trans h.nib

theorem writeReg (h : Pending ws s t) (r : Reg) (v : Word) (x : Bool) :
    Pending ws s (t.writeReg r v x) :=
  h.update (cellZero := writeReg_cellZero ..) (taintZero := writeReg_taintZero ..)

theorem setReg (h : Pending ws s t) (r : Reg) (v : Word) : Pending ws s (t.setReg r v) :=
  h.writeReg ..

theorem setFD (h : Pending ws s t) (f : FReg) (v : DWord) : Pending ws s (t.setFD f v) :=
  (h.setReg ..).setReg ..

theorem setTaintedFD (h : Pending ws s t) (f : FReg) (v : DWord) :
    Pending ws s (t.setTaintedFD f v) :=
  (h.writeReg ..).writeReg ..

theorem setTaintedFreg (h : Pending ws s t) (p : Precision) (f : FReg) (v : Nat) :
    Pending ws s (t.setTaintedFreg p f v) := by
  cases p with
  | single => exact h.writeReg ..
  | double => exact h.setTaintedFD ..

theorem note (h : Pending ws s t) (e : FloatEvent) : Pending ws s (t.note e) := h.update

theorem setExt (h : Pending ws s t) (e : ExtReg) (v : Word) : Pending ws s (t.setExt e v) := h.update

/-- A store to a word not stored to before buffers what that word held at the start. -/
theorem store {p v : Word} (h : Pending ws s t) (fresh : p ∉ ws) (stored : t.store p v = .ok u) :
    Pending (ws ++ [p]) s u where
  toStoresTo := h.toStoresTo.trans (.store stored)
  pc := (store_pc stored).trans h.pc
  nib := by
    have old := h.readWord_eq fresh
    obtain ⟨_, rfl⟩ := store_ok_iff.mp stored
    dsimp only
    rw [h.pc, h.nib]
    by_cases here : p = s.pc + 1
    · subst here
      rw [if_pos rfl, old, bufferAfter_of_mem (by simp)]
    · have other : s.pc + 1 ∉ [p] := fun e => here (List.mem_singleton.mp e).symm
      simp only [if_neg here, bufferAfter, List.mem_append, other, or_false]

theorem store2 {p hi lo : Word} (h : Pending [] s t) (stored : t.store2 p hi lo = .ok u) :
    Pending [p, p + 1] s u := by
  obtain ⟨_, first, second⟩ := store2_ok_iff.mp stored
  refine (h.store List.not_mem_nil first).store (fun e => ?_) second
  exact succ_ne_self p (List.mem_singleton.mp e)

end Pending

/-! ## How P moves -/

namespace Completes

variable {ws : List Word} {s t u : State}

theorem next (h : Pending ws s t) : Completes ws s t.next where
  toStoresTo := { h.toStoresTo with }
  nib _ := by rw [next_pc, next_nib, h.pc, h.nib, if_pos rfl]

/-- A skip discards what is buffered for P + 1. -/
theorem skip (h : Pending ws s t) : Completes ws s t.skip where
  toStoresTo := { h.toStoresTo with }
  nib _ := by
    have other : s.pc + 2 ≠ s.pc + 1 := by bv_omega
    rw [skip_pc, skip_nib, h.pc, if_neg other]

/-- A jump stores to no word, so nothing is buffered even where it leads to P + 1. -/
theorem jump (h : Pending [] s t) (p : Word) : Completes [] s (t.jump p) where
  toStoresTo := { h.toStoresTo with }
  nib empty := by rw [bufferAfter_nil, empty, jump_nib, ite_self]

theorem skipIf (h : Pending ws s t) (c : Bool) : Completes ws s (t.skipIf c) := by
  cases c with
  | false => exact next h
  | true => exact skip h

theorem jumpIf (h : Pending [] s t) (c : Bool) (p : Word) : Completes [] s (t.jumpIf c p) := by
  cases c with
  | false => exact next h
  | true => exact jump h p

/-- A STOP leaves P where it is, with nothing buffered. -/
theorem monitorCall (h : Pending [] s t) (cause : StopCause) :
    Completes [] s (t.monitorCall cause) where
  toStoresTo := { h.toStoresTo with }
  nib empty := by simp [h.nib, bufferAfter_nil, empty]

theorem overflowCall (h : Completes ws s t) (p : Word) (o : Bool) :
    Completes ws s (t.overflowCall p o) := by
  obtain same | ⟨_, _, stops⟩ := overflowCall_cases t p o
  · rwa [same]
  · rw [stops]
    exact { h with }

theorem setInt (h : Pending [] s t) (r : Reg) (v : Int) : Completes [] s (t.setInt r v) :=
  (next (h.setReg ..)).overflowCall ..

theorem setProduct (h : Pending [] s t) (r : Reg) (v : Int) : Completes [] s (t.setProduct r v) := by
  rw [setProduct_eq]
  exact (next ((h.setExt ..).setReg ..)).overflowCall ..

theorem setQuotient (h : Pending [] s t) (r : Reg) (n d : Word) :
    Completes [] s (t.setQuotient r n d) := by
  rw [setQuotient_eq]
  exact (next ((h.setExt ..).setReg ..)).overflowCall ..

end Completes

/-! ## Memory reference instructions -/

/-- The address calculation succeeds, and the instruction completes with stores to the words at Ea. -/
def CompletesAt (words : Word → List Word) (m : MemRef) (s t : State) : Prop :=
  ∃ ea, s.effAddr m = .ok ea ∧ Completes (words ea) s t

theorem CompletesAt.completes {words : Word → List Word} {m : MemRef} {s t : State} {ea : Word}
    (h : CompletesAt words m s t) (addressed : s.effAddr m = .ok ea) : Completes (words ea) s t := by
  obtain ⟨a, address, completes⟩ := h
  cases addressed.symm.trans address
  exact completes

theorem yields_at {words : Word → List Word} {m : MemRef} {s : State} {f : Word → Res State}
    (h : ∀ ea, Yields (Completes (words ea) s) (deliver (f ea))) :
    Yields (CompletesAt words m s) (deliver (s.effAddr m >>= f)) :=
  yields_bind fun ea addressed => ⟨fun t ht => ⟨ea, addressed, (h ea).of_next t ht⟩⟩

section Memory

variable (r : Reg) (m : MemRef) (s : State)

theorem execRtj_completes : Yields (CompletesAt (fun _ => []) m s) (execRtj r m s) :=
  yields_at fun _ => yields_next (.jump (Pending.refl.setReg ..) _)

theorem jumpOn_completes (rl : Relation) : Yields (CompletesAt (fun _ => []) m s) (jumpOn rl r m s) :=
  yields_at fun _ => yields_next (.jumpIf .refl ..)

theorem modifyJump_completes (rl : Relation) (q : BitVec 4) :
    Yields (CompletesAt (fun _ => []) m s) (modifyJump rl q m s) :=
  yields_at fun _ => yields_next ((Completes.jumpIf (Pending.refl.setReg ..) ..).overflowCall ..)

theorem compareSkip_completes (rl : Relation) :
    Yields (CompletesAt (fun _ => []) m s) (compareSkip rl r m s) :=
  yields_at fun _ => yields_bind fun _ _ => yields_next (.skipIf .refl _)

theorem execMin_completes : Yields (CompletesAt (fun ea => [ea]) m s) (execMin r m s) :=
  yields_at fun _ => yields_bind fun _ _ => yields_bind fun _ stored => yields_next
    ((Completes.skipIf (Pending.refl.store List.not_mem_nil stored) _).overflowCall ..)

theorem execAdd_completes : Yields (CompletesAt (fun _ => []) m s) (execAdd r m s) :=
  yields_at fun _ => yields_bind fun _ _ => yields_next (.setInt .refl ..)

theorem execSub_completes : Yields (CompletesAt (fun _ => []) m s) (execSub r m s) :=
  yields_at fun _ => yields_bind fun _ _ => yields_next (.setInt .refl ..)

theorem execAnd_completes : Yields (CompletesAt (fun _ => []) m s) (execAnd r m s) :=
  yields_at fun _ => yields_bind fun _ _ => yields_next (.next (Pending.refl.setReg ..))

theorem execLdr_completes : Yields (CompletesAt (fun _ => []) m s) (execLdr r m s) :=
  yields_at fun _ => yields_bind fun _ _ => yields_next (.next (Pending.refl.setReg ..))

theorem execAdm_completes : Yields (CompletesAt (fun ea => [ea]) m s) (execAdm r m s) :=
  yields_at fun _ => yields_bind fun _ _ => yields_bind fun _ stored => yields_next
    ((Completes.next (Pending.refl.store List.not_mem_nil stored)).overflowCall ..)

theorem execXmr_completes : Yields (CompletesAt (fun ea => [ea]) m s) (execXmr r m s) :=
  yields_at fun _ => yields_bind fun _ _ => yields_bind fun _ stored => yields_next
    (.next ((Pending.refl.store List.not_mem_nil stored).setReg ..))

theorem execStr_completes : Yields (CompletesAt (fun ea => [ea]) m s) (execStr r m s) :=
  yields_at fun _ => yields_bind fun _ stored =>
    yields_next (.next (Pending.refl.store List.not_mem_nil stored))

theorem execMpy_completes : Yields (CompletesAt (fun _ => []) m s) (execMpy r m s) :=
  yields_at fun _ => yields_bind fun _ _ => yields_next (.setProduct .refl ..)

theorem execDiv_completes : Yields (CompletesAt (fun _ => []) m s) (execDiv r m s) :=
  yields_at fun _ => yields_bind fun _ _ => yields_next (.setQuotient .refl ..)

theorem execLdd_completes (fd : FDesignator) :
    Yields (CompletesAt (fun _ => []) m s) (execLdd fd m s) :=
  yields_at fun _ => yields_bind fun _ _ => yields_next (.next (Pending.refl.setFD ..))

theorem execStd_completes (fd : FDesignator) :
    Yields (CompletesAt (fun ea => [ea, ea + 1]) m s) (execStd fd m s) :=
  yields_at fun _ => yields_bind fun _ stored => yields_next (.next (Pending.refl.store2 stored))

theorem floatMemory_completes (op : ArithOp) (p : Precision) (f : FReg) :
    Yields (CompletesAt (fun _ => []) m s) (floatMemory op p f m s) :=
  yields_at fun _ => yields_bind fun _ _ =>
    yields_next (.next ((Pending.refl.setTaintedFreg ..).note _))

end Memory

/-- A memory reference instruction stores to the words that `writtenWords` names. -/
theorem exec_completes_memory {i : Instr} {m : MemRef} (s : State) (h : memRef i = some m) :
    Yields (CompletesAt (writtenWords i) m s) (exec i s) := by
  -- only the forms with address fields remain
  cases i <;> cases h
  case rtj => exact execRtj_completes ..
  case min => exact execMin_completes ..
  case crg | crl | cre | crd => exact compareSkip_completes ..
  case jrp | jrn | jrz | jrf => exact jumpOn_completes ..
  case jpm | jnm | jzm | jfm => exact modifyJump_completes ..
  case add => exact execAdd_completes ..
  case sub => exact execSub_completes ..
  case and => exact execAnd_completes ..
  case ldr => exact execLdr_completes ..
  case adm => exact execAdm_completes ..
  case xmr => exact execXmr_completes ..
  case str => exact execStr_completes ..
  case mpy => exact execMpy_completes ..
  case div => exact execDiv_completes ..
  case ldd => exact execLdd_completes ..
  case std => exact execStd_completes ..
  case fad | fadd | fsb | fsbd | fmu | fmud | fdv | fdvd => exact floatMemory_completes ..

/-! ## Inter-register and argument instructions -/

section Register

variable (dr sra srb : Reg) (s : State)

theorem execStop_completes (code : BitVec 18) : Yields (Completes [] s) (execStop code s) :=
  yields_next (.monitorCall .refl _)

theorem setReg_next_completes (v : Word) : Yields (Completes [] s) (.next (s.setReg dr v).next) :=
  yields_next (.next (Pending.refl.setReg ..))

theorem registerIO_completes (write : Bool) (e : ExtReg) :
    Yields (Completes [] s) (registerIO write dr sra e s) := by
  cases write with
  | false => exact setReg_next_completes ..
  | true => exact yields_next (.next (Pending.refl.setExt ..))

theorem shiftDouble_completes (l r : Bool) (sm : ShiftMode) (dfd srad : FDesignator)
    (sc : BitVec 6) : Yields (Completes [] s) (shiftDouble l r sm dfd srad sc s) :=
  yields_next (.next (Pending.refl.setTaintedFD ..))

theorem bitSkip_completes (b : Bool) (bn : BitVec 5) :
    Yields (Completes [] s) (bitSkip b dr sra bn s) :=
  yields_next (.skipIf (Pending.refl.setReg ..) _)

theorem toInteger_completes (p : Precision) (round : Bool) (f : FReg) :
    Yields (Completes [] s) (toInteger p round dr f s) :=
  yields_next (.next ((Pending.refl.setReg ..).note _))

theorem execFlod_completes (f : FReg) : Yields (Completes [] s) (execFlod f sra s) :=
  yields_next (.next (Pending.refl.setFD ..))

theorem addSubCarry_completes (sc ac subtract : Bool) :
    Yields (Completes [] s) (addSubCarry sc ac subtract dr sra srb s) := by
  have carry (c : Bool) : Pending [] s { s with cb := c } := Pending.refl.update
  exact yields_next ((Completes.next ((carry _).setReg ..)).overflowCall ..)

theorem mulDiv_completes (divide : Bool) :
    Yields (Completes [] s) (mulDiv divide dr sra srb s) := by
  cases divide with
  | false => exact yields_next (.setProduct .refl ..)
  | true => exact yields_next (.setQuotient .refl ..)

theorem floatRegister_completes (op : ArithOp) (p : Precision) (df : FReg) (x y : FDesignator) :
    Yields (Completes [] s) (floatRegister op p df x y s) :=
  yields_next (.next ((Pending.refl.setTaintedFreg ..).note _))

theorem integerSkip_completes (rl : Relation) (subtract : Bool) :
    Yields (Completes [] s) (integerSkip rl subtract dr sra srb s) :=
  yields_next ((Completes.skipIf (Pending.refl.setReg ..) _).overflowCall ..)

theorem floatSkip_completes (rl : Relation) (subtract : Bool) (p : Precision) (df : FReg)
    (x y : FDesignator) : Yields (Completes [] s) (floatSkip rl subtract p df x y s) :=
  yields_next (.skipIf ((Pending.refl.setTaintedFreg ..).note _) _)

theorem directArith_completes (af : DirectArith) (a : BitVec 16) :
    Yields (Completes [] s) (directArith af dr a s) :=
  yields_next (.setInt .refl ..)

theorem directSkip_completes (cm : Bool) (rl : Relation) (a : BitVec 16) :
    Yields (Completes [] s) (directSkip cm rl dr a s) :=
  yields_next (.skipIf .refl _)

end Register

/-- An instruction of the other groups, EXC apart, stores to no word. -/
theorem exec_completes_register {i : Instr} (s : State) (noExc : isExc i = false)
    (h : memRef i = none) : Yields (Completes [] s) (exec i s) := by
  cases i
  case exc => cases noExc
  case fc21 | rfc11 => exact yields_refused _
  case stop => exact execStop_completes ..
  case rio => exact registerIO_completes ..
  case rin _ unused _ => exact registerIO_completes (sra := unused) (write := false) ..
  case rout unused _ _ => exact registerIO_completes (dr := unused) (write := true) ..
  case shr | slr | srr | sla | sra | sll | srl => exact setReg_next_completes ..
  case shd | slrd | srrd | slad | srad | slld | srld => exact shiftDouble_completes ..
  case bst | bcm | bcl => exact setReg_next_completes ..
  case bsz | bso => exact bitSkip_completes ..
  case fix | fir | fixd | fird => exact toInteger_completes ..
  case flo => exact setReg_next_completes ..
  case flod => exact execFlod_completes ..
  case lro | szr | rnd | rnda | rndb | rxo | rxoa | rxob | ror | rora | rorb =>
    exact setReg_next_completes ..
  case iroAddSub | rad | rsb => exact addSubCarry_completes ..
  case iroMulDiv => exact mulDiv_completes ..
  case rmu => exact mulDiv_completes (divide := false) ..
  case rdv => exact mulDiv_completes (divide := true) ..
  case fro | raf | rsf | rmf | rdf | rafd | rsfd | rmfd | rdfd => exact floatRegister_completes ..
  case irs | sgr | asg | sle | asl | seq | ase | sue | asu => exact integerSkip_completes ..
  case frs | sgf | asgf | slf | aslf | sef | asef | suf | asuf | sgd | agfd | sld | alfd | sed
      | aefd | sud | aufd => exact floatSkip_completes ..
  case dlr | dlrClear | xora | anda | ora => exact setReg_next_completes ..
  case dar | seta | seca | adda | adca => exact directArith_completes ..
  case dsk | ddp | ddn | ddz | ddf | dsp | dsn | dsz | dsf => exact directSkip_completes ..
  -- what is left has address fields
  all_goals cases h

/-- A next state of any instruction, EXC included, comes from stores and a move of P, with the word
executed in IR. -/
theorem exec_next_completes {i : Instr} {s t : State} (h : exec i s = .next t) :
    ∃ w ws, Completes ws { s with ir := w } t := by
  obtain ⟨noExc, w, runs⟩ := exec_next_executed h
  cases reference : memRef (executed i s) with
  | none => exact ⟨w, [], (exec_completes_register _ noExc reference).of_next t runs⟩
  | some m =>
    obtain ⟨ea, _, completes⟩ := (exec_completes_memory _ reference).of_next t runs
    exact ⟨w, _, completes⟩

/-! ## The invariant -/

theorem machineInv_issue {s : State} (h : MachineInv s) (w : Word) : MachineInv (s.issue w) :=
  { h with buffer := nofun }

theorem machineInv_withIR {s : State} (h : MachineInv s) (w : Word) :
    MachineInv { s with ir := w } :=
  { h with }

/-- What is buffered when an instruction begun with nothing buffered completes is the word at P. -/
theorem Completes.addr_eq_pc {ws : List Word} {s t : State} (h : Completes ws s t)
    (empty : s.nib = none) {b : NextBuffer} (buffered : t.nib = some b) : b.addr = t.pc := by
  rw [h.nib empty] at buffered
  split at buffered
  · next continues =>
    unfold bufferAfter at buffered
    split at buffered
    · cases buffered
      exact continues.symm
    · cases empty.symm.trans buffered
  · cases buffered

theorem Completes.machineInv {ws : List Word} {s t : State} (h : Completes ws s t)
    (empty : s.nib = none) (inv : MachineInv s) : MachineInv t where
  memWf := h.wf inv.memWf
  memInside c listed := by
    rw [h.params]
    obtain before | inside := h.listed c listed
    · exact inv.memInside c before
    · omega
  memWordsPos := h.params ▸ inv.memWordsPos
  memWordsMax := h.params ▸ inv.memWordsMax
  cellZero := h.cellZero.trans inv.cellZero
  taintZero := h.taintZero.trans inv.taintZero
  buffer _ buffered := h.addr_eq_pc empty buffered

/-- A stopped CPU stays in its state; a running one executes the instruction that the fetched word
decodes to. -/
theorem step_next {s t : State} (h : step s = .next t) :
    t = s ∨ ∃ w i, exec i (s.issue w) = .next t := by
  unfold step at h
  split at h
  · cases h
    exact .inl rfl
  · split at h
    · exact nomatch deliver_next_iff.mp h
    · split at h
      · cases h
      · exact .inr ⟨_, _, h⟩

/-! ## The obligations -/

/-- Settles O3: a step issues its word with the buffer used up, and the instruction completes from
there. -/
theorem stepKeepsInv : Obligations.StepKeepsInv := by
  intro s t inv ht
  obtain rfl | ⟨w, i, runs⟩ := step_next ht
  · exact inv
  · obtain ⟨w', ws, completes⟩ := exec_next_completes runs
    exact completes.machineInv rfl (machineInv_withIR (machineInv_issue inv w) w')

/-- Settles O14, from the buffer of a completed instruction. -/
theorem nextInstructionBuffer : Obligations.NextInstructionBuffer := by
  intro i m s t ea reference addressed empty ht
  have completes :=
    ((exec_completes_memory s reference).of_next t ht).completes addressed
  have buffer := completes.nib empty
  refine ⟨fun ⟨continues, written⟩ => ?_, fun other => ?_⟩
  · rw [if_pos continues, bufferAfter_of_mem written] at buffer
    exact ⟨buffer, fetch_ok_iff.mpr (.inl ⟨_, buffer, continues.symm, rfl⟩)⟩
  · rw [buffer]
    split
    · next continues =>
      exact (bufferAfter_of_not_mem fun written => other ⟨continues, written⟩).trans empty
    · rfl

/-- Settles O58, from the words stored to. -/
theorem writesOnlyItsWords : Obligations.WritesOnlyItsWords := by
  intro i s t noExc ht
  refine ⟨fun m ea reference addressed => ?_, fun reference x => ?_⟩
  · exact (((exec_completes_memory s reference).of_next t ht).completes addressed).bytes
  · exact ((exec_completes_register s noExc reference).of_next t ht).bytes x nofun

end Sys2Proof.Machine
end

section
/-! PROOFS. Fetching and executing (20_memory.md R75), double words (R63), and operands beyond MEM_WORDS
(R61, R65). -/

namespace Sys2Proof.Machine

/-! ## The step -/

/-- A running machine executes the instruction that the fetched word decodes to, with the word in IR and
the buffer used up. -/
theorem step_of_fetch {s : State} {w : Word} {i : Instr} (running : s.run = .running)
    (fetched : s.fetch = .ok w) (decoded : decodeWord w = .ok i) : step s = exec i (s.issue w) := by
  simp only [step, running, fetched, decoded]

/-- Four bytes decode as the word that they make (log 2). -/
theorem decodeWord_of_decode {b3 b2 b1 b0 : Byte} {i : Instr}
    (h : decode [b3, b2, b1, b0] = .ok (i, [])) : decodeWord (wordOfBytes b3 b2 b1 b0) = .ok i := by
  simp only [decode] at h
  split at h
  · next decoded =>
    cases h
    exact decoded
  · cases h

/-- Settles O11: the fetch answers the word in memory or the buffered one, and the step executes it. -/
theorem stepRunsDecoded : Obligations.StepRunsDecoded := by
  refine fun s i running => ⟨fun empty inside decoded => ?_, fun b buffered here decoded => ?_⟩
  · have fetched : s.fetch = .ok (s.mem.readWord s.pc.toNat) :=
      fetch_ok_iff.mpr (.inr ⟨by simp [empty], load_inside .fetch inside⟩)
    exact step_of_fetch running fetched (decodeWord_of_decode decoded)
  · have fetched : s.fetch = .ok b.word := fetch_ok_iff.mpr (.inl ⟨b, buffered, here, rfl⟩)
    exact step_of_fetch running fetched decoded

/-! ## Double words -/

theorem exists_load2_iff {s : State} {a : Word} :
    (∃ v, s.load2 a = .ok v) ↔
      a.toNat < s.params.memWords ∧ (a + 1).toNat < s.params.memWords := by
  simp [load2_ok_iff]

/-- A double store succeeds inside memory, with the two words written in turn. -/
theorem store2_mem {s t : State} {a hi lo : Word} (h : s.store2 a hi lo = .ok t) :
    a.toNat < s.params.memWords ∧ (a + 1).toNat < s.params.memWords ∧ t.params = s.params ∧
      t.mem = (s.mem.writeWord a.toNat hi).writeWord (a + 1).toNat lo := by
  obtain ⟨u, first, second⟩ := store2_ok_iff.mp h
  obtain ⟨inside, rfl⟩ := store_ok_iff.mp first
  obtain ⟨inside', rfl⟩ := store_ok_iff.mp second
  exact ⟨inside, inside', rfl, rfl⟩

theorem exists_store2_iff {s : State} {a hi lo : Word} :
    (∃ t, s.store2 a hi lo = .ok t) ↔
      a.toNat < s.params.memWords ∧ (a + 1).toNat < s.params.memWords := by
  constructor
  · rintro ⟨t, h⟩
    obtain ⟨first, second, _⟩ := store2_mem h
    exact ⟨first, second⟩
  · rintro ⟨first, second⟩
    exact ⟨_, store2_ok_iff.mpr ⟨_, store_inside hi first, store_inside lo second⟩⟩

/-- After a double store each of the two words reads as it was written: the second store leaves the first
word alone, since `a + 1` is not `a`. -/
theorem store2_readWord {s t : State} {a hi lo : Word} (canonical : s.mem.wf = true)
    (h : s.store2 a hi lo = .ok t) :
    t.mem.readWord a.toNat = hi ∧ t.mem.readWord (a + 1).toNat = lo := by
  obtain ⟨_, _, _, mem⟩ := store2_mem h
  have other : a.toNat ≠ (a + 1).toNat := fun e =>
    succ_ne_self a (BitVec.eq_of_toNat_eq e.symm)
  rw [mem]
  exact ⟨(readWord_writeWord_ne _ _ other).trans (readWord_writeWord_self _ _ canonical),
    readWord_writeWord_self _ _ (writeWord_wf _ _ canonical)⟩

/-- A double load gives the two words, the left portion word first. -/
theorem load_of_load2 {s : State} {a : Word} {v : DWord} (h : s.load2 a = .ok v) :
    s.load .read a = .ok (v.extractLsb' 32 32) ∧ s.load .read (a + 1) = .ok (v.extractLsb' 0 32) := by
  obtain ⟨first, second, rfl⟩ := load2_ok_iff.mp h
  rw [extract_append_high _ _ _ _ (by decide), extract_append_low _ _ _ _ (by decide),
    BitVec.extractLsb'_eq_self, BitVec.extractLsb'_eq_self]
  exact ⟨load_inside _ first, load_inside _ second⟩

theorem store2_memoryBut {s t : State} {a hi lo : Word} (h : s.store2 a hi lo = .ok t) :
    MemoryBut s t a 2 := by
  refine fun x outside => (StoresTo.store2 h).bytes x fun b written => ?_
  obtain rfl | rfl : b = a ∨ b = a + 1 := by simpa using written
  · simpa using outside 0 (by decide)
  · exact outside 1 (by decide)

/-- Settles O5, from the two reads and the two writes that a double access is. -/
theorem doubleWordOrder : Obligations.DoubleWordOrder := by
  refine fun s a hi lo canonical =>
    ⟨exists_store2_iff, exists_load2_iff, fun v => load_of_load2, fun t stored => ?_⟩
  obtain ⟨first, second, params, _⟩ := store2_mem stored
  obtain ⟨high, low⟩ := store2_readWord canonical stored
  rw [← params] at first second
  exact ⟨load2_ok_iff.mpr ⟨first, second, by rw [high, low]⟩, load_ok_iff.mpr ⟨first, high.symm⟩,
    load_ok_iff.mpr ⟨second, low.symm⟩, store2_memoryBut stored⟩

/-! ## Operands beyond memory -/

/-- What MEM_WORDS makes of an access of kind `k` to the operand at `ea`, a double word or not: it stops
with the fault of the first word outside (20_memory.md R61, R63). -/
structure Guarded (s : State) (k : Access) (ea : Word) (double : Bool) {α : Type} (x : Res α) :
    Prop where
  first : s.params.memWords ≤ ea.toNat → x = .error (.fault (.addressOutOfRange k ea))
  second : double = true → ea.toNat < s.params.memWords → s.params.memWords ≤ (ea + 1).toNat →
    x = .error (.fault (.addressOutOfRange k (ea + 1)))

/-- What follows a guarded access does not run when it stops. -/
theorem Guarded.bind {s : State} {ea : Word} {k : Access} {double : Bool} {α β : Type} {x : Res α}
    (h : Guarded s k ea double x) (f : α → Res β) : Guarded s k ea double (x >>= f) where
  first outside := by rw [h.first outside, error_bind]
  second d inside outside := by rw [h.second d inside outside, error_bind]

section Guarded

variable (s : State) (ea : Word)

theorem load_guarded (k : Access) : Guarded s k ea false (s.load k ea) where
  first := load_outside k
  second := nofun

theorem store_guarded (v : Word) : Guarded s .write ea false (s.store ea v) where
  first := store_outside v
  second := nofun

theorem load2_guarded : Guarded s .read ea true (s.load2 ea) where
  first outside := by rw [State.load2, load_outside _ outside, error_bind]
  second _ inside outside := by
    rw [State.load2, load_inside _ inside, ok_bind, load_outside _ outside, error_bind]

/-- The first store leaves MEM_WORDS as it is, so the second word meets the same bound. -/
theorem store2_guarded (hi lo : Word) : Guarded s .write ea true (s.store2 ea hi lo) where
  first outside := by rw [State.store2, store_outside _ outside, error_bind]
  second _ inside outside := by
    rw [State.store2, store_inside _ inside, ok_bind]
    exact store_outside _ outside

theorem loadFloat_guarded (p : Precision) :
    Guarded s .read ea (p == .double) (s.loadFloat p ea) := by
  cases p with
  | single => exact (load_guarded s ea .read).bind ..
  | double => exact (load2_guarded s ea).bind ..

end Guarded

/-- Once Ea is known, what is guarded is the rest of the meaning. -/
theorem exists_guarded {s : State} {ea : Word} {m : MemRef} {k : Access} {double : Bool}
    {f : Word → Res State} (addressed : s.effAddr m = .ok ea)
    (h : Guarded s k ea double (f ea)) :
    ∃ x, deliver (s.effAddr m >>= f) = deliver x ∧ Guarded s k ea double x :=
  ⟨f ea, by rw [addressed, ok_bind], h⟩

/-- A memory reference instruction begins with its access to the operand: what it computes after the
address calculation is guarded as that access is. -/
theorem exec_guarded {i : Instr} {m : MemRef} {s : State} {ea : Word} {k : Access}
    (reference : memRef i = some m) (access : operandAccess i = some k)
    (addressed : s.effAddr m = .ok ea) :
    ∃ x, exec i s = deliver x ∧ Guarded s k ea (doubleOperand i) x := by
  -- only the forms with an operand at Ea remain
  cases i <;> cases reference <;> cases access
  case min | crg | crl | cre | crd | add | sub | and | ldr | adm | xmr | mpy | div =>
    exact exists_guarded addressed ((load_guarded ..).bind ..)
  case str => exact exists_guarded addressed ((store_guarded ..).bind ..)
  case ldd => exact exists_guarded addressed ((load2_guarded ..).bind ..)
  case std => exact exists_guarded addressed ((store2_guarded ..).bind ..)
  case fad | fsb | fmu | fdv =>
    exact exists_guarded addressed ((loadFloat_guarded _ _ .single).bind ..)
  case fadd | fsbd | fmud | fdvd =>
    exact exists_guarded addressed ((loadFloat_guarded _ _ .double).bind ..)

/-- Settles O18: the fault of the guarded access is the instruction's. -/
theorem operandOutside : Obligations.OperandOutside := by
  intro i m s ea k reference access addressed
  obtain ⟨x, runs, guarded⟩ := exec_guarded reference access addressed
  refine ⟨fun outside => ?_, fun double inside outside => ?_⟩
  · rw [runs, guarded.first outside]
    rfl
  · rw [runs, guarded.second double inside outside]
    rfl

end Sys2Proof.Machine
end


section
/-! PROOFS. Every instruction decodes from its own word, as its most specific row, and that row does what
the instruction does (30_encoding.md R90 to R106). -/

namespace Sys2Proof

/-! ## The most specific row -/

theorem decodeWord_of_parent {w : Word} {i j : Instr} (parent : decodeParent w = .ok j)
    (specific : j.canon = i) : decodeWord w = .ok i := by
  rw [decodeWord, parent, ← specific]

/-- A word decodes to the most specific row of its parent row. -/
theorem decodeWord_ok_iff {w : Word} {i : Instr} :
    decodeWord w = .ok i ↔ ∃ j, decodeParent w = .ok j ∧ j.canon = i := by
  rw [decodeWord]
  cases decodeParent w <;> simp

/-- The laws of Laws/PerInstr for an arbitrary instruction: a parent row by its own law, and every other
row is its own most specific row. -/
theorem canonical (i : Instr) : Laws.Canonical.Statement i := by
  cases i with
  | rio => exact Laws.Canonical.rio ..
  | shr => exact Laws.Canonical.shr ..
  | shd => exact Laws.Canonical.shd ..
  | lro => exact Laws.Canonical.lro ..
  | iroAddSub => exact Laws.Canonical.iroAddSub ..
  | iroMulDiv => exact Laws.Canonical.iroMulDiv ..
  | fro => exact Laws.Canonical.fro ..
  | irs => exact Laws.Canonical.irs ..
  | frs => exact Laws.Canonical.frs ..
  | dlr => exact Laws.Canonical.dlr ..
  | dar => exact Laws.Canonical.dar ..
  | dsk => exact Laws.Canonical.dsk ..
  | _ => exact ⟨rfl, rfl, fun _ => rfl⟩

/-! ## The word of an instruction decodes -/

/-- A memory reference word is read by the memory reference decoder, at a function code that is not 0. -/
theorem decodeWord_encodeMR {fc : BitVec 5} {r : BitVec 6} {m : MemRef} {i : Instr} (nonzero : fc ≠ 0#5)
    (h : decodeMemory (encodeMR fc r m) = .ok i) : decodeWord (encodeMR fc r m) = .ok i.canon :=
  decodeWord_of_parent ((decodeParent_encodeMR fc r m nonzero).trans h) rfl

/-- The word of any instruction decodes to its most specific row, format by format: a mnemonic's word is
written by the encoder of its parent row, which decodes to the parent at that setting. -/
theorem decodeWord_encode (i : Instr) : decodeWord (encode i) = .ok i.canon := by
  cases i
  case rtj | min | crg | crl | cre | crd | jrp | jrn | jrz | jrf | add | sub | and | ldr | adm | fc21 |
      xmr | str | mpy | div | ldd | std =>
    exact decodeWord_encodeMR (by decide) (by simp [decodeMemory])
  case exc => exact decodeWord_encodeMR (by decide) (by simp [decodeMemory, decodeExc_encodeMR])
  case jpm | jnm | jzm | jfm =>
    exact decodeWord_encodeMR (by decide) (by simp [decodeMemory, decodeModify_encodeMR])
  case fad | fadd | fsb | fsbd | fmu | fmud | fdv | fdvd =>
    exact decodeWord_encodeMR (by decide) (by simp [decodeMemory, decodeFloat_encodeMR])
  case stop => exact decodeWord_of_parent (decodeParent_encodeStop _) rfl
  case rio | rin | rout => exact decodeWord_of_parent (decodeParent_encodeRio ..) rfl
  case shr | slr | srr | sla | sra | sll | srl =>
    exact decodeWord_of_parent (decodeParent_encodeShr ..) rfl
  case shd | slrd | srrd | slad | srad | slld | srld =>
    exact decodeWord_of_parent (decodeParent_encodeShd ..) rfl
  case bst dr sra bn =>
    obtain ⟨bst, _⟩ := decodeParent_encodeBit dr sra bn
    exact decodeWord_of_parent bst rfl
  case bcm dr sra bn =>
    obtain ⟨_, bcm, _⟩ := decodeParent_encodeBit dr sra bn
    exact decodeWord_of_parent bcm rfl
  case bcl dr sra bn =>
    obtain ⟨_, _, bcl, _⟩ := decodeParent_encodeBit dr sra bn
    exact decodeWord_of_parent bcl rfl
  case bsz dr sra bn =>
    obtain ⟨_, _, _, bsz, _⟩ := decodeParent_encodeBit dr sra bn
    exact decodeWord_of_parent bsz rfl
  case bso dr sra bn =>
    obtain ⟨_, _, _, _, bso⟩ := decodeParent_encodeBit dr sra bn
    exact decodeWord_of_parent bso rfl
  case fix => exact decodeWord_of_parent (decodeParent_encodeFix false false ..) rfl
  case fir => exact decodeWord_of_parent (decodeParent_encodeFix true false ..) rfl
  case fixd => exact decodeWord_of_parent (decodeParent_encodeFix false true ..) rfl
  case fird => exact decodeWord_of_parent (decodeParent_encodeFix true true ..) rfl
  case flo => exact decodeWord_of_parent (decodeParent_encodeFlo false ..) rfl
  case flod => exact decodeWord_of_parent (decodeParent_encodeFlo true ..) rfl
  case lro | szr | rnd | rnda | rndb | rxo | rxoa | rxob | ror | rora | rorb =>
    exact decodeWord_of_parent (decodeParent_encodeLro ..) rfl
  case rfc11 => exact decodeWord_of_parent (decodeParent_encodeRfc11 ..) rfl
  case iroAddSub | rad | rsb => exact decodeWord_of_parent (decodeParent_encodeIro_addSub ..) rfl
  case iroMulDiv | rmu | rdv => exact decodeWord_of_parent (decodeParent_encodeIro_mulDiv ..) rfl
  case fro | raf | rsf | rmf | rdf | rafd | rsfd | rmfd | rdfd =>
    exact decodeWord_of_parent (decodeParent_encodeFro ..) rfl
  case irs | sgr | asg | sle | asl | seq | ase | sue | asu =>
    exact decodeWord_of_parent (decodeParent_encodeIrs ..) rfl
  case frs | sgf | asgf | slf | aslf | sef | asef | suf | asuf | sgd | agfd | sld | alfd | sed | aefd |
      sud | aufd =>
    exact decodeWord_of_parent (decodeParent_encodeFrs ..) rfl
  case dlr | dlrClear | xora | anda | ora => exact decodeWord_of_parent (decodeParent_encodeDlr ..) rfl
  case dar | seta | seca | adda | adca => exact decodeWord_of_parent (decodeParent_encodeDar ..) rfl
  case dsk | ddp | ddn | ddz | ddf | dsp | dsn | dsz | dsf =>
    exact decodeWord_of_parent (decodeParent_encodeDsk ..) rfl

/-- Settles O6: a well-formed instruction is its own most specific row. -/
theorem decodeEncode : Obligations.DecodeEncode := by
  intro i wellFormed
  obtain ⟨_, _, canon⟩ := canonical i
  rw [decodeWord_encode, canon wellFormed]

/-! ## A mnemonic does what its parent row does -/

section Meaning

open Machine

variable (s : State)

/-- Reading SHR as its mnemonic changes no meaning: both are `shiftSingle` at the setting (R205 to R211). -/
theorem exec_canonShr (l r : Bool) (sm : ShiftMode) (dr sra : Reg) (sc : BitVec 5) :
    exec (canonShr l r sm dr sra sc) s = shiftSingle l r sm dr sra sc s := by
  unfold canonShr
  split <;> rfl

theorem exec_canonShd (l r : Bool) (sm : ShiftMode) (dfd srad : FDesignator) (sc : BitVec 6) :
    exec (canonShd l r sm dfd srad sc) s = shiftDouble l r sm dfd srad sc s := by
  unfold canonShd
  split <;> rfl

theorem exec_canonLro (ca cb : Bool) (lo : LogicOp) (dr sra srb : Reg) :
    exec (canonLro ca cb lo dr sra srb) s = logic ca cb lo dr sra srb s := by
  unfold canonLro
  split <;> rfl

theorem exec_canonAddSub (sc ac subtract : Bool) (dr sra srb : Reg) :
    exec (canonAddSub sc ac subtract dr sra srb) s = addSubCarry sc ac subtract dr sra srb s := by
  unfold canonAddSub
  split <;> rfl

theorem exec_canonFro (op : ArithOp) (p : Precision) (df : FReg) (sra srb : FDesignator) :
    exec (canonFro op p df sra srb) s = floatRegister op p df sra srb s := by
  unfold canonFro
  split <;> rfl

theorem exec_canonIrs (rl : Relation) (subtract : Bool) (dr sra srb : Reg) :
    exec (canonIrs rl subtract dr sra srb) s = integerSkip rl subtract dr sra srb s := by
  unfold canonIrs
  split <;> rfl

theorem exec_canonFrs (rl : Relation) (subtract : Bool) (p : Precision) (df : FReg)
    (sra srb : FDesignator) :
    exec (canonFrs rl subtract p df sra srb) s = floatSkip rl subtract p df sra srb s := by
  unfold canonFrs
  split <;> rfl

theorem exec_canonDlr (lf : DirectLogic) (dr : Reg) (a : BitVec 16) :
    exec (canonDlr lf dr a) s = directLogic lf dr a s := by
  unfold canonDlr
  split <;> rfl

theorem exec_canonDar (af : DirectArith) (dr : Reg) (a : BitVec 16) :
    exec (canonDar af dr a) s = directArith af dr a s := by
  unfold canonDar
  split <;> rfl

theorem exec_canonDsk (cm : Bool) (rl : Relation) (dr : Reg) (a : BitVec 16) :
    exec (canonDsk cm rl dr a) s = directSkip cm rl dr a s := by
  unfold canonDsk
  split <;> rfl

/-- The most specific row means what the instruction means: a parent row and its mnemonics share one
meaning, and every other instruction is its own most specific row. -/
theorem exec_canon (i : Instr) : exec i.canon s = exec i s := by
  cases i with
  | rio write => cases write <;> rfl
  | shr => exact exec_canonShr ..
  | shd => exact exec_canonShd ..
  | lro => exact exec_canonLro ..
  | iroAddSub => exact exec_canonAddSub ..
  | iroMulDiv divide => cases divide <;> rfl
  | fro => exact exec_canonFro ..
  | irs => exact exec_canonIrs ..
  | frs => exact exec_canonFrs ..
  | dlr => exact exec_canonDlr ..
  | dar => exact exec_canonDar ..
  | dsk => exact exec_canonDsk ..
  | _ => rfl

end Meaning

/-- Settles O8, from the two halves: the word decodes to the most specific row, and that row means the
same. -/
theorem parentIsMnemonic : Obligations.ParentIsMnemonic :=
  fun i => ⟨decodeWord_encode i, fun s => exec_canon s i⟩

end Sys2Proof
end

section
/-! PROOFS. No bit of a word that decodes is dropped (30_encoding.md R90 to R99): each format puts the
fields of a word back together to the word, and each decoder answers an instruction of those fields. -/

namespace Sys2Proof

/-! ## A word is the concatenation of its fields -/

theorem ofBool_getLsbD {n : Nat} (v : BitVec n) (k : Nat) :
    BitVec.ofBool (v.getLsbD k) = v.extractLsb' k 1 := by
  refine BitVec.eq_of_getLsbD_eq fun i hi => ?_
  obtain rfl : i = 0 := by omega
  simp

theorem zero_eq_slice {w : Word} {k : Nat} (h : w.getLsbD k = false) : 0#1 = w.extractLsb' k 1 := by
  rw [← ofBool_getLsbD, h]
  rfl

theorem one_eq_slice {w : Word} {k : Nat} (h : w.getLsbD k = true) : 1#1 = w.extractLsb' k 1 := by
  rw [← ofBool_getLsbD, h]
  rfl

/-- Format MR (R91), at the word's own function code. -/
theorem encodeMR_fields {w : Word} {fc : BitVec 5} (code : fieldFC w = fc) :
    encodeMR fc (fieldR w) (fieldMem w) = w := by
  subst code
  simp (disch := rfl) only [encodeMR, fieldFC, fieldR, fieldMem, ofBool_getLsbD,
    BitVec.extractLsb'_append_extractLsb'_eq_extractLsb']
  exact BitVec.extractLsb'_eq_self

/-- The words of the inter-register group (R90). -/
structure InterRegister (w : Word) : Prop where
  code : fieldFC w = 0#5
  group : w.getLsbD 31 = false

/-- Format IR (R94): operands that are the word's fields, whatever the row calls them. -/
theorem InterRegister.encodeIR_eq {w : Word} (h : InterRegister w) {rfc rsc : BitVec 4}
    {dr sra srb : BitVec 6} (hrfc : fieldRFC w = rfc) (hrsc : rsc = fieldRSC w)
    (hdr : dr = fieldR w) (hsra : sra = fieldSRA w) (hsrb : srb = fieldSRB w) :
    encodeIR rfc rsc dr sra srb = w := by
  subst hrfc hrsc hdr hsra hsrb
  rw [encodeIR, ← h.code, zero_eq_slice h.group]
  simp (disch := rfl) only [fieldFC, fieldRFC, fieldRSC, fieldR, fieldSRA, fieldSRB,
    BitVec.extractLsb'_append_extractLsb'_eq_extractLsb']
  exact BitVec.extractLsb'_eq_self

/-- Format IR with bits 17-0 as one field (R96). -/
theorem InterRegister.encodeIR18_eq {w : Word} (h : InterRegister w) {rfc rsc : BitVec 4}
    (hrfc : fieldRFC w = rfc) (hrsc : rsc = fieldRSC w) :
    encodeIR18 rfc rsc (w.extractLsb' 0 18) = w := by
  subst hrfc hrsc
  rw [encodeIR18, ← h.code, zero_eq_slice h.group]
  simp (disch := rfl) only [fieldFC, fieldRFC, fieldRSC,
    BitVec.extractLsb'_append_extractLsb'_eq_extractLsb']
  exact BitVec.extractLsb'_eq_self

/-- Format AR (R95): AFC is IW[30:29]. -/
theorem encodeAR_eq {w : Word} {afc : BitVec 2} (code : fieldFC w = 0#5)
    (group : w.getLsbD 31 = true)
    (hafc : afc = BitVec.ofBool (w.getLsbD 30) ++ BitVec.ofBool (w.getLsbD 29)) :
    encodeAR afc (fieldASF w) (fieldArgDR w) (fieldA w) = w := by
  rw [encodeAR, ← code, one_eq_slice group, hafc]
  simp (disch := rfl) only [fieldFC, fieldASF, fieldArgDR, fieldA, ofBool_getLsbD,
    BitVec.extractLsb'_append_extractLsb'_eq_extractLsb']
  exact BitVec.extractLsb'_eq_self

/-! ## Sub-fields -/

theorem extractLsb'_extractLsb' {n : Nat} (v : BitVec n) {j l k m : Nat} (h : k + m ≤ l) :
    (v.extractLsb' j l).extractLsb' k m = v.extractLsb' (j + k) m := by
  refine BitVec.eq_of_getLsbD_eq fun i hi => ?_
  have inside : k + i < l := by omega
  simp [hi, inside, Nat.add_assoc]

theorem getLsbD_field (w : Word) {j l k : Nat} (h : k < l) :
    (w.extractLsb' j l).getLsbD k = w.getLsbD (j + k) := by
  simp [h]

/-- RSC bit by bit (R94). -/
theorem fieldRSC_eq_bits (w : Word) :
    fieldRSC w = BitVec.ofBool (w.getLsbD 26) ++ BitVec.ofBool (w.getLsbD 25) ++
      (BitVec.ofBool (w.getLsbD 24) ++ BitVec.ofBool (w.getLsbD 23)) := by
  simp (disch := rfl) only [fieldRSC, ofBool_getLsbD,
    BitVec.extractLsb'_append_extractLsb'_eq_extractLsb']

theorem fieldLow2_eq_bits (w : Word) :
    fieldLow2 w = BitVec.ofBool (w.getLsbD 24) ++ BitVec.ofBool (w.getLsbD 23) := by
  simp (disch := rfl) only [fieldLow2, ofBool_getLsbD,
    BitVec.extractLsb'_append_extractLsb'_eq_extractLsb']

theorem fieldHigh2_eq_bits (w : Word) :
    fieldHigh2 w = BitVec.ofBool (w.getLsbD 26) ++ BitVec.ofBool (w.getLsbD 25) := by
  simp (disch := rfl) only [fieldHigh2, ofBool_getLsbD,
    BitVec.extractLsb'_append_extractLsb'_eq_extractLsb']

theorem rscFlags_fields (w : Word) :
    rscFlags (w.getLsbD 26) (w.getLsbD 25) (fieldLow2 w) = fieldRSC w := by
  rw [rscFlags, fieldLow2_eq_bits, fieldRSC_eq_bits]

theorem rscFlags_function {w : Word} (h : fieldHigh2 w = 0#2) :
    rscFlags false false (fieldLow2 w) = fieldRSC w := by
  have zero : BitVec.ofBool false ++ BitVec.ofBool false = 0#2 := rfl
  rw [fieldRSC_eq_bits, ← fieldHigh2_eq_bits, ← fieldLow2_eq_bits, h, rscFlags, zero]

/-- W of RIO is the one RSC bit that is not printed 0 (R98). -/
theorem rsc_of_high3 {w : Word} (h : w.extractLsb' 24 3 = 0#3) :
    0#3 ++ BitVec.ofBool (w.getLsbD 23) = fieldRSC w := by
  rw [← h, ofBool_getLsbD]
  exact BitVec.extractLsb'_append_extractLsb'_eq_extractLsb' rfl

/-- Rd of the converts is the one RSC bit that is not printed 0 (R98). -/
theorem rsc_of_low3 {w : Word} (h : w.extractLsb' 23 3 = 0#3) :
    BitVec.ofBool (w.getLsbD 26) ++ 0#3 = fieldRSC w := by
  rw [← h, ofBool_getLsbD]
  exact BitVec.extractLsb'_append_extractLsb'_eq_extractLsb' rfl

/-- AF of IRS and FRS is 0 or 1, so its upper bit is 0 (R98). -/
theorem rscRelation_fields {w : Word} (h : w.getLsbD 24 = false) :
    rscRelation (Relation.ofBits (fieldHigh2 w)) (w.getLsbD 23) = fieldRSC w := by
  rw [rscRelation, Relation.bits_ofBits, fieldHigh2_eq_bits, fieldRSC_eq_bits, h]
  rfl

/-- A count or bit number of at most 31 (R101). -/
theorem low5_fields {w : Word} (h : w.getLsbD 5 = false) :
    0#1 ++ w.extractLsb' 0 5 = fieldSRB w := by
  rw [zero_eq_slice h]
  exact BitVec.extractLsb'_append_extractLsb'_eq_extractLsb' rfl

/-- A modification register number, R <= 15 (R101). -/
theorem low4_fields {w : Word} (h : fieldR w < 16#6) : 0#2 ++ w.extractLsb' 12 4 = fieldR w := by
  have small : ∀ v : BitVec 6, v < 16#6 → 0#2 ++ v.extractLsb' 0 4 = v := by decide
  simpa only [fieldR, extractLsb'_extractLsb' w (show 0 + 4 ≤ 6 by decide)] using small _ h

theorem FReg.bits_ofBits (v : BitVec 6) : (FReg.ofBits v).bits (v.getLsbD 4) = v := by
  revert v
  decide

@[simp] theorem FDesignator.bits_ofBits (v : BitVec 6) : (FDesignator.ofBits v).bits = v :=
  FReg.bits_ofBits v

/-- A floating designator in bits `j + 5` to `j`, its Y-bit `j + 4` among them (10_state.md R28). -/
theorem bits_slice {w : Word} {j : Nat} {y : Bool} (h : w.getLsbD (j + 4) = y) :
    (FReg.ofBits (w.extractLsb' j 6)).bits y = w.extractLsb' j 6 := by
  rw [← h, ← getLsbD_field w (show 4 < 6 by decide), FReg.bits_ofBits]

theorem bits_fieldR {w : Word} {y : Bool} (h : w.getLsbD 16 = y) :
    (FReg.ofBits (fieldR w)).bits y = fieldR w :=
  bits_slice h

theorem bits_fieldSRA {w : Word} {y : Bool} (h : w.getLsbD 10 = y) :
    (FReg.ofBits (fieldSRA w)).bits y = fieldSRA w :=
  bits_slice h

theorem ExtReg.ofBits_eq_some_iff {v : BitVec 6} {e : ExtReg} :
    ExtReg.ofBits v = some e ↔ v = e.bits := by
  cases e <;> revert v <;> decide

/-! ## What the decoders answer -/

/-- A decoder that goes on only when `p` holds. -/
theorem ite_error_right_ok_iff {p : Prop} [Decidable p] {u : Undefined} {x : Except Undefined Instr}
    {i : Instr} : (if p then x else .error u) = .ok i ↔ p ∧ x = .ok i := by
  split <;> simp [*]

/-- A decoder that stops when a bit is set. -/
theorem ite_error_left_ok_iff {b : Bool} {u : Undefined} {x : Except Undefined Instr} {i : Instr} :
    (if b then .error u else x) = .ok i ↔ b = false ∧ x = .ok i := by
  cases b <;> simp

theorem decodeExc_ok_iff {w : Word} {i : Instr} :
    decodeExc w = .ok i ↔ w.getLsbD 31 = false ∧
      (fieldR w = 0#6 ∧ i = .exc .memory (fieldMem w).x (fieldMem w).b (fieldMem w).d ∨
        fieldR w = 1#6 ∧ i = .exc .immediate (fieldMem w).x (fieldMem w).b (fieldMem w).d) := by
  have group : (fieldMem w).i = w.getLsbD 31 := rfl
  rw [decodeExc, ite_error_left_ok_iff, group]
  refine and_congr_right fun _ => ?_
  split <;> simp_all [eq_comm (a := i)]

theorem decodeRio_ok_iff {w : Word} {i : Instr} :
    decodeRio w = .ok i ↔ w.extractLsb' 24 3 = 0#3 ∧
      ∃ e, fieldSRB w = ExtReg.bits e ∧ i = .rio (w.getLsbD 23) (fieldR w) (fieldSRA w) e := by
  simp only [decodeRio, ite_error_right_ok_iff, ← ExtReg.ofBits_eq_some_iff]
  cases ExtReg.ofBits (fieldSRB w) <;> simp [eq_comm]

theorem decodeBit_ok_iff {w : Word} {rsc : BitVec 4} {mk : Reg → Reg → BitVec 5 → Instr}
    {i : Instr} :
    decodeBit w rsc mk = .ok i ↔ fieldRSC w = rsc ∧ w.getLsbD 5 = false ∧
      mk (fieldR w) (fieldSRA w) (w.extractLsb' 0 5) = i := by
  rw [decodeBit, ite_error_right_ok_iff, ite_error_left_ok_iff, Except.ok.injEq]

/-! ## The word of an instruction that was decoded -/

theorem encode_of_decodeExc {w : Word} {i : Instr} (code : fieldFC w = 2#5)
    (h : decodeExc w = .ok i) : encode i = w := by
  obtain ⟨direct, form⟩ := decodeExc_ok_iff.mp h
  have word := encodeMR_fields code
  have address : fieldMem w = ⟨false, (fieldMem w).x, (fieldMem w).b, (fieldMem w).d⟩ := by
    rw [← direct]
    rfl
  rw [address] at word
  obtain ⟨r, rfl⟩ | ⟨r, rfl⟩ := form <;> rwa [r] at word

/-- JPM, JNM, JZM, JFM: the register number is the low part of a field whose upper bits are 0. -/
theorem encodeMR_modify {w : Word} {fc : BitVec 5} (code : fieldFC w = fc) (h : fieldR w < 16#6) :
    encodeMR fc (0#2 ++ w.extractLsb' 12 4) (fieldMem w) = w := by
  rw [low4_fields h]
  exact encodeMR_fields code

/-- FC 28 to 31: the Y-bit that chose the precision is written back. -/
theorem encode_decodeFloat {w : Word} {fc : BitVec 5} {single double : FReg → MemRef → Instr}
    (code : fieldFC w = fc) (hs : ∀ f m, encode (single f m) = encodeMR fc (f.bits false) m)
    (hd : ∀ f m, encode (double f m) = encodeMR fc (f.bits true) m) :
    encode (decodeFloat w single double) = w := by
  unfold decodeFloat
  split
  · next y => rw [hd, bits_fieldR y, encodeMR_fields code]
  · next y => rw [hs, bits_fieldR (Bool.eq_false_of_not_eq_true y), encodeMR_fields code]

/-- The memory reference group (R97). The cases are numbered as the function codes, FC 1 to 31. -/
theorem encode_of_decodeMemory {w : Word} {i : Instr} (nonzero : fieldFC w ≠ 0#5)
    (h : decodeMemory w = .ok i) : encode i = w := by
  unfold decodeMemory at h
  split at h
  case h_2 code => exact encode_of_decodeExc code h
  case h_12 code | h_13 code | h_14 code | h_15 code =>
    obtain ⟨small, ⟨⟩⟩ := ite_error_right_ok_iff.mp h
    exact encodeMR_modify code small
  case h_28 code | h_29 code | h_30 code =>
    cases h
    exact encode_decodeFloat code (fun _ _ => rfl) fun _ _ => rfl
  case h_31 =>
    have code : fieldFC w = 31#5 := by
      simp only [imp_false] at *
      bv_omega
    cases h
    exact encode_decodeFloat code (fun _ _ => rfl) fun _ _ => rfl
  case h_26 code | h_27 code =>
    cases h
    rw [encode, FDesignator.bits_ofBits]
    exact encodeMR_fields code
  all_goals
    cases h
    exact encodeMR_fields ‹_›

/-- FIX, FIR, FIXD, FIRD: Rd is IW[26] and the other RSC bits are 0, the precision is the Y-bit IW[10]. -/
theorem encode_of_decodeFix {w : Word} {i : Instr} (group : InterRegister w) (rfc : fieldRFC w = 8#4)
    (h : decodeFix w = .ok i) : encode i = w := by
  obtain ⟨low3, h⟩ := ite_error_right_ok_iff.mp h
  obtain ⟨low, h⟩ := ite_error_right_ok_iff.mp h
  have rsc := rsc_of_low3 low3
  cases h
  split <;> next rd y =>
    rw [rd] at rsc
    exact group.encodeIR_eq rfc rsc rfl (bits_fieldSRA y) low.symm

/-- FLO, FLOD: the precision is the Y-bit IW[16]. -/
theorem encode_of_decodeFlo {w : Word} {i : Instr} (group : InterRegister w) (rfc : fieldRFC w = 9#4)
    (h : decodeFlo w = .ok i) : encode i = w := by
  obtain ⟨rsc, h⟩ := ite_error_right_ok_iff.mp h
  obtain ⟨low, h⟩ := ite_error_right_ok_iff.mp h
  cases h
  split
  · next y => exact group.encodeIR_eq rfc rsc.symm (bits_fieldR y) rfl low.symm
  · next y =>
    exact group.encodeIR_eq rfc rsc.symm (bits_fieldR (Bool.eq_false_of_not_eq_true y)) rfl low.symm

/-- IRO: IW[24] tells multiply and divide, which leave no room for SCf and ACf, from add and subtract. -/
theorem encode_of_decodeIro {w : Word} {i : Instr} (group : InterRegister w) (rfc : fieldRFC w = 12#4)
    (h : decodeIro w = .ok i) : encode i = w := by
  unfold decodeIro at h
  split at h
  · next mulDiv =>
    obtain ⟨high, ⟨⟩⟩ := ite_error_right_ok_iff.mp h
    refine group.encodeIR_eq rfc ?_ rfl rfl rfl
    rw [← rscFlags_function high, fieldLow2_eq_bits, mulDiv]
  · next addSub =>
    cases h
    refine group.encodeIR_eq rfc ?_ rfl rfl rfl
    rw [← rscFlags_fields, fieldLow2_eq_bits, Bool.eq_false_of_not_eq_true addSub]

/-- An instruction of the inter-register group, by RFC (R98). The cases are numbered from 1 for RFC 0. -/
theorem encode_of_decodeInterRegister {w : Word} {i : Instr} (group : InterRegister w)
    (h : decodeInterRegister w = .ok i) : encode i = w := by
  unfold decodeInterRegister at h
  split at h
  case h_1 rfc =>
    obtain ⟨rsc, ⟨⟩⟩ := ite_error_right_ok_iff.mp h
    exact group.encodeIR18_eq rfc rsc.symm
  case h_2 rfc =>
    obtain ⟨rsc, e, ext, rfl⟩ := decodeRio_ok_iff.mp h
    exact group.encodeIR_eq rfc (rsc_of_high3 rsc) rfl rfl ext.symm
  case h_3 rfc =>
    obtain ⟨count, ⟨⟩⟩ := ite_error_left_ok_iff.mp h
    rw [encode, encodeShr, ShiftMode.bits_ofBits]
    exact group.encodeIR_eq rfc (rscFlags_fields w) rfl rfl (low5_fields count)
  case h_4 rfc =>
    cases h
    rw [encode, encodeShd, ShiftMode.bits_ofBits]
    exact group.encodeIR_eq rfc (rscFlags_fields w) (FDesignator.bits_ofBits _)
      (FDesignator.bits_ofBits _) rfl
  case h_5 rfc =>
    unfold decodeSetComplement at h
    split at h
    · obtain ⟨rsc, number, rfl⟩ := decodeBit_ok_iff.mp h
      exact group.encodeIR_eq rfc rsc.symm rfl rfl (low5_fields number)
    · obtain ⟨rsc, number, rfl⟩ := decodeBit_ok_iff.mp h
      exact group.encodeIR_eq rfc rsc.symm rfl rfl (low5_fields number)
  case h_6 rfc | h_7 rfc | h_8 rfc =>
    obtain ⟨rsc, number, rfl⟩ := decodeBit_ok_iff.mp h
    exact group.encodeIR_eq rfc rsc.symm rfl rfl (low5_fields number)
  case h_9 rfc => exact encode_of_decodeFix group rfc h
  case h_10 rfc => exact encode_of_decodeFlo group rfc h
  case h_11 rfc =>
    cases h
    rw [encode, encodeLro, LogicOp.bits_ofBits]
    exact group.encodeIR_eq rfc (rscFlags_fields w) rfl rfl rfl
  case h_12 rfc =>
    cases h
    exact group.encodeIR18_eq rfc rfl
  case h_13 rfc => exact encode_of_decodeIro group rfc h
  case h_14 rfc =>
    obtain ⟨high, ⟨⟩⟩ := ite_error_right_ok_iff.mp h
    rw [encode, encodeFro, ArithOp.bits_ofBits, Precision.bit_ofBit]
    exact group.encodeIR_eq rfc (rscFlags_function high) (bits_fieldR rfl) (FDesignator.bits_ofBits _)
      (FDesignator.bits_ofBits _)
  case h_15 rfc =>
    obtain ⟨function, ⟨⟩⟩ := ite_error_left_ok_iff.mp h
    exact group.encodeIR_eq rfc (rscRelation_fields function) rfl rfl rfl
  case h_16 =>
    have rfc : fieldRFC w = 15#4 := by
      simp only [imp_false] at *
      bv_omega
    obtain ⟨function, ⟨⟩⟩ := ite_error_left_ok_iff.mp h
    rw [encode, encodeFrs, Precision.bit_ofBit]
    exact group.encodeIR_eq rfc (rscRelation_fields function) (bits_fieldR rfl)
      (FDesignator.bits_ofBits _) (FDesignator.bits_ofBits _)

/-- An instruction of the argument group, by IW[30:29] (R99). -/
theorem encode_decodeArgument {w : Word} (code : fieldFC w = 0#5) (group : w.getLsbD 31 = true) :
    encode (decodeArgument w) = w := by
  unfold decodeArgument
  split
  · next skip =>
    rw [encode, encodeDsk, Relation.bits_ofBits]
    exact encodeAR_eq code group (by rw [skip]; rfl)
  · next noSkip =>
    rw [Bool.not_eq_true] at noSkip
    split
    · next arith =>
      rw [encode, encodeDar, DirectArith.bits_ofBits]
      exact encodeAR_eq code group (by rw [noSkip, arith]; rfl)
    · next logic =>
      rw [Bool.not_eq_true] at logic
      rw [encode, encodeDlr, DirectLogic.bits_ofBits]
      exact encodeAR_eq code group (by rw [noSkip, logic]; rfl)

/-- The parent row that a word decodes to is written back as that word. -/
theorem encode_of_decodeParent {w : Word} {i : Instr} (h : decodeParent w = .ok i) : encode i = w := by
  unfold decodeParent at h
  split at h
  · next code =>
    split at h
    · next group =>
      cases h
      exact encode_decodeArgument code group
    · next group =>
      exact encode_of_decodeInterRegister ⟨code, Bool.eq_false_of_not_eq_true group⟩ h
  · next nonzero => exact encode_of_decodeMemory nonzero h

/-- Settles O7: the word of a parent row is the word of its most specific row, which is well-formed. -/
theorem encodeDecode : Obligations.EncodeDecode := by
  intro w i h
  obtain ⟨j, parent, rfl⟩ := decodeWord_ok_iff.mp h
  obtain ⟨wellFormed, word, _⟩ := canonical j
  exact ⟨word.trans (encode_of_decodeParent parent), wellFormed⟩

end Sys2Proof
end

section
/-! PROOFS. The words that are instructions (30_encoding.md R101): what each decoder refuses, put together
to the list of the undefined words. -/

namespace Sys2Proof

/-! ## The undefined words by group -/

/-- EXC with I = 1 or R of 2 or more, and JPM, JNM, JZM, JFM with R of 16 or more. -/
def UndefinedMemory (w : Word) : Prop :=
  (fieldFC w = 2#5 ∧ (w.getLsbD 31 = true ∨ 2#6 ≤ fieldR w)) ∨
    (12#5 ≤ fieldFC w ∧ fieldFC w ≤ 15#5 ∧ 16#6 ≤ fieldR w)

/-- The sub-function codes, counts and numbers of the inter-register group without a meaning. -/
def UndefinedInterRegister (w : Word) : Prop :=
  (fieldRFC w = 0#4 ∧ fieldRSC w ≠ 0#4) ∨
    (fieldRFC w = 1#4 ∧ (2#4 ≤ fieldRSC w ∨ (fieldSRB w ≠ 2#6 ∧ fieldSRB w ≠ 3#6))) ∨
    (fieldRFC w = 2#4 ∧ 32#6 ≤ fieldSRB w) ∨
    (fieldRFC w = 4#4 ∧ fieldRSC w ≠ 0b1100#4 ∧ fieldRSC w ≠ 0b1101#4) ∨
    (5#4 ≤ fieldRFC w ∧ fieldRFC w ≤ 7#4 ∧ fieldRSC w ≠ 0b1100#4) ∨
    (4#4 ≤ fieldRFC w ∧ fieldRFC w ≤ 7#4 ∧ 32#6 ≤ fieldSRB w) ∨
    (fieldRFC w = 8#4 ∧ (fieldRSC w ≠ 0#4 ∧ fieldRSC w ≠ 0b1000#4 ∨ fieldSRB w ≠ 0#6)) ∨
    (fieldRFC w = 9#4 ∧ (fieldRSC w ≠ 0b0010#4 ∨ fieldSRB w ≠ 0#6)) ∨
    (fieldRFC w = 12#4 ∧ w.getLsbD 24 = true ∧ fieldHigh2 w ≠ 0#2) ∨
    (fieldRFC w = 13#4 ∧ fieldHigh2 w ≠ 0#2) ∨
    (14#4 ≤ fieldRFC w ∧ w.getLsbD 24 = true)

/-! ## Sub-fields as numbers -/

/-- BN and SC up to 31 leave the upper bit of their field 0. -/
theorem getLsbD_five_eq_false_iff (w : Word) : w.getLsbD 5 = false ↔ ¬32#6 ≤ fieldSRB w := by
  have upper : ∀ v : BitVec 6, v.getLsbD 5 = false ↔ ¬32#6 ≤ v := by decide
  rw [← upper, fieldSRB, getLsbD_field w (by decide)]

/-- RSC of RIO is W alone. -/
theorem high3_eq_zero_iff (w : Word) : w.extractLsb' 24 3 = 0#3 ↔ ¬2#4 ≤ fieldRSC w := by
  have upper : ∀ v : BitVec 4, v.extractLsb' 1 3 = 0#3 ↔ ¬2#4 ≤ v := by decide
  rw [← upper, fieldRSC, extractLsb'_extractLsb' w (by decide)]

/-- RSC of the converts to integer is Rd alone. -/
theorem low3_eq_zero_iff (w : Word) :
    w.extractLsb' 23 3 = 0#3 ↔ fieldRSC w = 0#4 ∨ fieldRSC w = 0b1000#4 := by
  have lower : ∀ v : BitVec 4, v.extractLsb' 0 3 = 0#3 ↔ v = 0#4 ∨ v = 0b1000#4 := by decide
  rw [← lower, fieldRSC, extractLsb'_extractLsb' w (by decide)]

/-! ## What each decoder accepts -/

theorem exists_decodeExc_iff (w : Word) :
    (∃ i, decodeExc w = .ok i) ↔ ¬(w.getLsbD 31 = true ∨ 2#6 ≤ fieldR w) := by
  have small : ∀ v : BitVec 6, v = 0#6 ∨ v = 1#6 ↔ ¬2#6 ≤ v := by decide
  simp only [decodeExc_ok_iff, exists_and_left, exists_or, exists_eq, and_true, small, not_or,
    Bool.not_eq_true]

theorem exists_decodeModify_iff (w : Word) (mk : BitVec 4 → MemRef → Instr) :
    (∃ i, decodeModify w mk = .ok i) ↔ ¬16#6 ≤ fieldR w := by
  simp [decodeModify, ite_error_right_ok_iff]

theorem exists_decodeMemory_iff (w : Word) :
    (∃ i, decodeMemory w = .ok i) ↔ ¬UndefinedMemory w := by
  unfold decodeMemory UndefinedMemory
  split
  case h_2 code => simp [exists_decodeExc_iff, code]
  case h_12 code | h_13 code | h_14 code | h_15 code => simp [exists_decodeModify_iff, code]
  case h_31 =>
    have other : fieldFC w ≠ 2#5 ∧ ¬(12#5 ≤ fieldFC w ∧ fieldFC w ≤ 15#5) := by
      simp only [imp_false] at *
      bv_omega
    simp [other, ← and_assoc]
  all_goals simp [*]

theorem exists_decodeRio_iff (w : Word) :
    (∃ i, decodeRio w = .ok i) ↔
      ¬(2#4 ≤ fieldRSC w ∨ (fieldSRB w ≠ 2#6 ∧ fieldSRB w ≠ 3#6)) := by
  have ext : (∃ e, fieldSRB w = ExtReg.bits e) ↔ fieldSRB w = 2#6 ∨ fieldSRB w = 3#6 := by
    constructor
    · rintro ⟨_ | _, h⟩
      exacts [.inl h, .inr h]
    · rintro (h | h)
      exacts [⟨.overflow, h⟩, ⟨.remainder, h⟩]
  rw [not_or, not_and_or, not_not, not_not, ← ext, ← high3_eq_zero_iff]
  simp [decodeRio_ok_iff]

theorem exists_decodeShr_iff (w : Word) : (∃ i, decodeShr w = .ok i) ↔ ¬32#6 ≤ fieldSRB w := by
  simp only [decodeShr, ite_error_left_ok_iff, getLsbD_five_eq_false_iff, exists_and_left,
    Except.ok.injEq, exists_eq', and_true]

theorem exists_decodeBit_iff (w : Word) (rsc : BitVec 4) (mk : Reg → Reg → BitVec 5 → Instr) :
    (∃ i, decodeBit w rsc mk = .ok i) ↔ fieldRSC w = rsc ∧ ¬32#6 ≤ fieldSRB w := by
  simp only [decodeBit_ok_iff, ← getLsbD_five_eq_false_iff, exists_and_left, exists_eq', and_true]

/-- BST and BCM differ in RSC bit 23, the lowest. -/
theorem exists_decodeSetComplement_iff (w : Word) :
    (∃ i, decodeSetComplement w = .ok i) ↔
      ¬(fieldRSC w ≠ 0b1100#4 ∧ fieldRSC w ≠ 0b1101#4 ∨ 32#6 ≤ fieldSRB w) := by
  have bit : (fieldRSC w).getLsbD 0 = w.getLsbD 23 := getLsbD_field w (by decide)
  have printed : ∀ v : BitVec 4,
      ¬(v ≠ 0b1100#4 ∧ v ≠ 0b1101#4) ↔ v = if v.getLsbD 0 then 0b1101#4 else 0b1100#4 := by decide
  rw [not_or, printed, bit, decodeSetComplement]
  split <;> exact exists_decodeBit_iff ..

theorem exists_decodeFix_iff (w : Word) :
    (∃ i, decodeFix w = .ok i) ↔
      ¬(fieldRSC w ≠ 0#4 ∧ fieldRSC w ≠ 0b1000#4 ∨ fieldSRB w ≠ 0#6) := by
  simp only [decodeFix, ite_error_right_ok_iff, low3_eq_zero_iff, exists_and_left, Except.ok.injEq,
    exists_eq', and_true, not_or, not_and_or, not_not]

theorem exists_decodeFlo_iff (w : Word) :
    (∃ i, decodeFlo w = .ok i) ↔ fieldRSC w = 0b0010#4 ∧ fieldSRB w = 0#6 := by
  simp only [decodeFlo, ite_error_right_ok_iff, exists_and_left, Except.ok.injEq, exists_eq', and_true]

theorem exists_decodeIro_iff (w : Word) :
    (∃ i, decodeIro w = .ok i) ↔ ¬(w.getLsbD 24 = true ∧ fieldHigh2 w ≠ 0#2) := by
  unfold decodeIro
  split
  · next mulDiv =>
    simp only [ite_error_right_ok_iff, exists_and_left, Except.ok.injEq, exists_eq', and_true, mulDiv,
      true_and, not_not]
  · next addSub =>
    simp only [Except.ok.injEq, exists_eq', true_iff]
    exact fun carry => addSub carry.1

theorem exists_decodeInterRegister_iff (w : Word) :
    (∃ i, decodeInterRegister w = .ok i) ↔ ¬UndefinedInterRegister w := by
  unfold decodeInterRegister UndefinedInterRegister
  split
  case h_1 rfc => simp [ite_error_right_ok_iff, rfc]
  case h_2 rfc => simp [exists_decodeRio_iff, rfc]
  case h_3 rfc => simp [exists_decodeShr_iff, rfc]
  case h_5 rfc => simp [exists_decodeSetComplement_iff, rfc]
  case h_6 rfc | h_7 rfc | h_8 rfc => simp [exists_decodeBit_iff, rfc]
  case h_9 rfc => simp [exists_decodeFix_iff, rfc]
  case h_10 rfc => simp [exists_decodeFlo_iff, rfc]
  case h_13 rfc => simp [exists_decodeIro_iff, rfc]
  case h_14 rfc => simp [decodeFro, ite_error_right_ok_iff, rfc]
  case h_15 rfc => simp [decodeIrs, ite_error_left_ok_iff, rfc]
  case h_16 =>
    have rfc : fieldRFC w = 15#4 := by
      simp only [imp_false] at *
      bv_omega
    simp [decodeFrs, ite_error_left_ok_iff, rfc]
  case h_4 rfc | h_11 rfc | h_12 rfc => simp [rfc]

/-- A word is refused by the decoder of its group only, and the argument group refuses none (R99). -/
theorem exists_decodeWord_iff (w : Word) :
    (∃ i, decodeWord w = .ok i) ↔
      (fieldFC w = 0#5 → w.getLsbD 31 = false → ∃ i, decodeInterRegister w = .ok i) ∧
        (fieldFC w ≠ 0#5 → ∃ i, decodeMemory w = .ok i) := by
  have parent : (∃ i, decodeWord w = .ok i) ↔ ∃ i, decodeParent w = .ok i := by
    simp [decodeWord_ok_iff]
  rw [parent, decodeParent]
  split
  · next code =>
    cases group : w.getLsbD 31 <;> simp [code]
  · next code => simp [code]

theorem UndefinedMemory.code_ne_zero {w : Word} (h : UndefinedMemory w) : fieldFC w ≠ 0#5 := by
  rintro code
  simp [UndefinedMemory, code] at h

/-- Settles O9: a word of function code 0 is undefined by the inter-register list, every other word by the
memory reference list. -/
theorem definedWords : Obligations.DefinedWords := by
  intro w
  -- the two lists make up the obligation's list
  have undefined_iff : (UndefinedMemory w ∨
      (fieldFC w = 0#5 ∧ w.getLsbD 31 = false ∧ UndefinedInterRegister w)) ↔ _ := or_assoc
  refine Iff.trans ?_ (not_congr undefined_iff)
  rw [exists_decodeWord_iff, exists_decodeInterRegister_iff, exists_decodeMemory_iff]
  have memory := UndefinedMemory.code_ne_zero (w := w)
  tauto

end Sys2Proof
end

section
/-! PROOFS. How the terms of Sys2Proof/Safety.lean are established, update by update: frames, moves of P, the
monitor call after an integer overflow, and what a store leaves (00_scope.md section 5.1, 20_memory.md R75,
60_exceptions.md R372). -/

namespace Sys2Proof

open Machine

/-! ## Frames -/

namespace Unchanged

variable {s t : State} {rs : List Reg} {ps : List Part}

theorem refl : Unchanged s s rs ps where
  regs _ _ := rfl
  taint _ _ := rfl
  memory _ _ := rfl
  regOR _ := rfl
  regRR _ := rfl
  cb _ := rfl
  ovf _ := rfl
  unf _ := rfl
  run _ := rfl
  ir := rfl
  params := rfl

/-- One more update, given by what it does to each part: a part that nothing is said of stays. -/
theorem update {u : State} (h : Unchanged s t rs ps)
    (regs : ∀ r, r ∉ rs → u.reg r = t.reg r := by simp)
    (taint : ∀ b : BitVec 4, lowReg b ∉ rs → u.isTainted b = t.isTainted b := by simp)
    (memory : Part.memory ∉ ps → ∀ a : Nat, u.mem.readByte a = t.mem.readByte a := by simp)
    (regOR : Part.regOR ∉ ps → u.regOR = t.regOR := by simp)
    (regRR : Part.regRR ∉ ps → u.regRR = t.regRR := by simp)
    (cb : Part.cb ∉ ps → u.cb = t.cb := by simp)
    (ovf : Part.flags ∉ ps → u.ovf = t.ovf := by simp)
    (unf : Part.flags ∉ ps → u.unf = t.unf := by simp)
    (run : Part.run ∉ ps → u.run = t.run := by simp)
    (ir : u.ir = t.ir := by simp) (params : u.params = t.params := by simp) :
    Unchanged s u rs ps :=
  h.trans { regs, taint, memory, regOR, regRR, cb, ovf, unf, run, ir, params }

theorem next (h : Unchanged s t rs ps) : Unchanged s t.next rs ps := h.update

theorem jump (h : Unchanged s t rs ps) (a : Word) : Unchanged s (t.jump a) rs ps := h.update

theorem skipIf (h : Unchanged s t rs ps) (c : Bool) : Unchanged s (t.skipIf c) rs ps := h.update

theorem jumpIf (h : Unchanged s t rs ps) (c : Bool) (a : Word) : Unchanged s (t.jumpIf c a) rs ps :=
  h.update

theorem writeReg (h : Unchanged s t rs ps) {r : Reg} (v : Word) (x : Bool)
    (named : r ∈ rs := by simp) : Unchanged s (t.writeReg r v x) rs ps :=
  h.update
    (regs := fun q other =>
      (writeReg_reg t r q v x).trans (if_neg fun ⟨here, _⟩ => other (here ▸ named)))
    (taint := fun b other =>
      (writeReg_isTainted t r b v x).trans (if_neg fun ⟨here, _⟩ => other (here ▸ named)))

theorem setReg (h : Unchanged s t rs ps) {r : Reg} (v : Word) (named : r ∈ rs := by simp) :
    Unchanged s (t.setReg r v) rs ps :=
  h.writeReg v false named

theorem setTaintedReg (h : Unchanged s t rs ps) {r : Reg} (v : Word) (named : r ∈ rs := by simp) :
    Unchanged s (t.setTaintedReg r v) rs ps :=
  h.writeReg v true named

theorem setFD (h : Unchanged s t rs ps) {f : FReg} (v : DWord) (high : cellHigh f ∈ rs := by simp)
    (low : cellLow f ∈ rs := by simp) : Unchanged s (t.setFD f v) rs ps :=
  (h.setReg _ high).setReg _ low

theorem setTaintedFD (h : Unchanged s t rs ps) {f : FReg} (v : DWord)
    (high : cellHigh f ∈ rs := by simp) (low : cellLow f ∈ rs := by simp) :
    Unchanged s (t.setTaintedFD f v) rs ps :=
  (h.setTaintedReg _ high).setTaintedReg _ low

theorem note (h : Unchanged s t rs ps) (e : FloatEvent) (named : Part.flags ∈ ps := by simp) :
    Unchanged s (t.note e) rs ps :=
  h.update (ovf := fun other => absurd named other) (unf := fun other => absurd named other)

theorem setOR (h : Unchanged s t rs ps) (v : Word) (named : Part.regOR ∈ ps := by simp) :
    Unchanged s (t.setExt .overflow v) rs ps :=
  h.update (regOR := fun other => absurd named other)

theorem setRR (h : Unchanged s t rs ps) (v : Word) (named : Part.regRR ∈ ps := by simp) :
    Unchanged s (t.setExt .remainder v) rs ps :=
  h.update (regRR := fun other => absurd named other)

theorem overflowCall (h : Unchanged s t rs ps) (a : Word) (o : Bool)
    (named : Part.run ∈ ps := by simp) : Unchanged s (t.overflowCall a o) rs ps :=
  h.update (run := fun other => absurd named other)

theorem store {u : State} {a v : Word} (h : Unchanged s t rs ps) (stored : t.store a v = .ok u)
    (named : Part.memory ∈ ps := by simp) : Unchanged s u rs ps := by
  obtain ⟨_, rfl⟩ := store_ok_iff.mp stored
  exact h.update (memory := fun other => absurd named other)

theorem store2 {u : State} {a hi lo : Word} (h : Unchanged s t rs ps)
    (stored : t.store2 a hi lo = .ok u) (named : Part.memory ∈ ps := by simp) :
    Unchanged s u rs ps := by
  obtain ⟨_, first, second⟩ := store2_ok_iff.mp stored
  exact (h.store first named).store second named

end Unchanged

/-! ## Moves of P -/

/-- A jump taken by the Boolean test `b` is taken by the relation that `b` decides. -/
theorem jumpsIf_of_test {s t : State} {b : Bool} {c : Prop} {a : Word} (test : b = true ↔ c)
    (pc : t.pc = if b then a else s.pc + 1 := by simp)
    (nib : t.nib = if b then none else s.nib := by simp) : JumpsIf s t c a := by
  rw [JumpsIf, Continues, pc, nib, ← test]
  cases b <;> simp

/-- A skip is a jump to P + 2. -/
theorem skipsIf_of_test {s t : State} {b : Bool} {c : Prop} (test : b = true ↔ c)
    (pc : t.pc = if b then s.pc + 2 else s.pc + 1 := by simp)
    (nib : t.nib = if b then none else s.nib := by simp) : SkipsIf s t c :=
  jumpsIf_of_test test pc nib

/-! ## Integer overflow -/

theorem intOverflow_iff (v : Int) : intOverflow v = true ↔ OutOfRange v := by
  simp only [intOverflow, OutOfRange, Bool.or_eq_true, decide_eq_true_eq]
  omega

theorem monitorOn_of_run {s t : State} (run : t.run = s.run) : MonitorOn s t False :=
  ⟨fun e => e.1.elim, fun _ => run⟩

/-- The overflow monitor call ends an instruction that has left the run state and the parameters alone. -/
theorem Unchanged.monitorOn {s t : State} {rs : List Reg} {ps : List Part} {o : Bool} {c : Prop}
    (h : Unchanged s t rs ps) (overflow : o = true ↔ c) (other : Part.run ∉ ps := by simp) :
    MonitorOn s (t.overflowCall s.pc o) c := by
  rw [MonitorOn, overflowCall_run, h.params, h.run other, ← overflow]
  exact ⟨fun e => if_pos e, fun e => if_neg e⟩

/-! ## Stores -/

theorem memoryBut_of_store {s t u : State} {a v : Word} (stored : s.store a v = .ok t)
    (mem : u.mem = t.mem := by simp) : MemoryBut s u a 1 := by
  intro x outside
  rw [mem]
  refine (StoresTo.store stored).bytes x fun b written => ?_
  obtain rfl := List.mem_singleton.mp written
  simpa using outside 0 (by decide)

theorem readWord_of_store {s t u : State} {a v : Word} (canonical : s.mem.wf = true)
    (stored : s.store a v = .ok t) (mem : u.mem = t.mem := by simp) :
    u.mem.readWord a.toNat = v := by
  obtain ⟨_, rfl⟩ := store_ok_iff.mp stored
  rw [mem]
  exact readWord_writeWord_self _ _ canonical

/-- What is buffered after one store is what the machine goes on with at P + 1. -/
theorem buffersOld_of_store {s t u : State} {a v : Word} (stored : s.store a v = .ok t)
    (pc : u.pc = t.pc + 1 := by simp) (nib : u.nib = t.nib := by simp) : BuffersOld s u a := by
  obtain ⟨_, rfl⟩ := store_ok_iff.mp stored
  exact ⟨pc, nib⟩

end Sys2Proof
end

section
/-! PROOFS. The effective address (40_memory_reference.md R130 to R134): the chains that give it, where the
calculation stops, and that its stop is the instruction's. -/

namespace Sys2Proof.Machine

/-! ## Chains that end -/

theorem indirectChain_pos {s : State} {k : Nat} {a ea : Word} (h : IndirectChain s k a ea) : 1 ≤ k := by
  cases h <;> omega

/-- With `n` levels to go, the calculation gives what a chain of at most `n` indirect address words ends in
(40_memory_reference.md R131, R132). -/
theorem indirect_ok_iff {s : State} {n : Nat} {a ea : Word} :
    s.indirect n a = .ok ea ↔ ∃ k, 1 ≤ k ∧ k ≤ n ∧ IndirectChain s k a ea := by
  induction n generalizing a with
  | zero =>
    rw [indirect_zero]
    constructor
    · nofun
    · rintro ⟨k, _, _, _⟩
      omega
  | succ n ih =>
    simp only [indirect_succ_ok_iff, load_ok_iff, address_ok_iff]
    constructor
    · rintro ⟨w, ⟨inside, word⟩, zero, _, ⟨base, index, rfl⟩, rest⟩
      cases flag : w.getLsbD 31 with
      | false =>
        obtain rfl := (if_neg (Bool.not_eq_true _ ▸ flag)).mp rest
        exact ⟨1, by omega, by omega, .last w inside word zero base index flag⟩
      | true =>
        obtain ⟨k, _, _, chain⟩ := ih.mp ((if_pos flag).mp rest)
        exact ⟨k + 1, by omega, by omega, .more w inside word zero base index flag chain⟩
    · rintro ⟨k, _, _, chain⟩
      cases chain with
      | last w inside word zero base index flag =>
        refine ⟨w, ⟨inside, word⟩, zero, _, ⟨base, index, rfl⟩, ?_⟩
        rw [flag, if_neg Bool.false_ne_true]
      | more w inside word zero base index flag chain =>
        refine ⟨w, ⟨inside, word⟩, zero, _, ⟨base, index, rfl⟩, ?_⟩
        rw [flag, if_pos rfl, ih]
        exact ⟨_, indirectChain_pos chain, by omega, chain⟩

/-- Settles O15: the first sum, and for I = 1 the chain from it. -/
theorem effAddrMeaning : Obligations.EffAddrMeaning := by
  intro s m ea
  rw [effAddr_ok_iff]
  simp only [address_ok_iff]
  constructor
  · rintro ⟨_, ⟨base, index, rfl⟩, rest⟩
    refine ⟨base, index, ?_⟩
    cases flag : m.i with
    | false => exact ((if_neg (Bool.not_eq_true _ ▸ flag)).mp rest).symm
    | true => exact indirect_ok_iff.mp ((if_pos flag).mp rest)
  · rintro ⟨base, index, rest⟩
    refine ⟨_, ⟨base, index, rfl⟩, ?_⟩
    cases flag : m.i with
    | false => exact ((if_neg (Bool.not_eq_true _ ▸ flag)).mp rest).symm
    | true => exact indirect_ok_iff.mpr ((if_pos flag).mp rest)

/-! ## Where the calculation stops -/

theorem address_of_untainted {s : State} {b x : BitVec 4} (d : Word) (base : s.isTainted b = false)
    (index : s.isTainted x = false) :
    s.address b x d = .ok (s.reg (lowReg b) + s.reg (lowReg x) + d) :=
  address_ok_iff.mpr ⟨base, index, rfl⟩

theorem addressReg_tainted {s : State} {r : BitVec 4} (h : s.isTainted r = true) :
    s.addressReg r = .error (.refusal (.taintedAddress r)) := by
  rw [State.addressReg, if_pos h, refuse]

theorem address_taintedBase {s : State} {b : BitVec 4} (x : BitVec 4) (d : Word)
    (base : s.isTainted b = true) : s.address b x d = .error (.refusal (.taintedAddress b)) := by
  rw [State.address, addressReg_tainted base, error_bind]

theorem address_taintedIndex {s : State} {b x : BitVec 4} (d : Word) (base : s.isTainted b = false)
    (index : s.isTainted x = true) : s.address b x d = .error (.refusal (.taintedAddress x)) := by
  rw [State.address, addressReg_ok_iff.mpr ⟨base, rfl⟩, ok_bind, addressReg_tainted index, error_bind]

/-- The address calculation of an instruction word begins with that word's own sum. -/
theorem effAddr_of_address_error {s : State} {m : MemRef} {h : Halt}
    (stops : s.address m.b m.x (m.d.setWidth 32) = .error h) : s.effAddr m = .error h := by
  rw [State.effAddr, stops, error_bind]

theorem effAddr_indirect {s : State} {m : MemRef} (base : s.isTainted m.b = false)
    (index : s.isTainted m.x = false) (flag : m.i = true) :
    s.effAddr m =
      s.indirect maxIndirect (s.reg (lowReg m.b) + s.reg (lowReg m.x) + m.d.setWidth 32) := by
  rw [State.effAddr, address_of_untainted _ base index, ok_bind, if_pos flag]

section Level

variable {s : State} {a : Word} (n : Nat)

theorem indirect_outside (outside : s.params.memWords ≤ a.toNat) :
    s.indirect (n + 1) a = .error (.fault (.addressOutOfRange .indirect a)) := by
  rw [State.indirect, load_outside _ outside, error_bind]

variable (inside : a.toNat < s.params.memWords)
include inside

theorem indirect_wordForm (form : (s.mem.readWord a.toNat).extractLsb' 20 3 ≠ 0) :
    s.indirect (n + 1) a = .error (.refusal .indirectWordForm) := by
  rw [State.indirect, load_inside _ inside, ok_bind]
  exact if_neg form

/-- An indirect address word of the printed form stops where its sum stops. -/
theorem indirect_of_address_error {h : Halt} (zero : (s.mem.readWord a.toNat).extractLsb' 20 3 = 0)
    (stops : s.address ((s.mem.readWord a.toNat).extractLsb' 23 4)
      ((s.mem.readWord a.toNat).extractLsb' 27 4)
      (((s.mem.readWord a.toNat).extractLsb' 0 20).setWidth 32) = .error h) :
    s.indirect (n + 1) a = .error h := by
  rw [State.indirect, load_inside _ inside, ok_bind]
  exact (if_pos zero).trans (by rw [stops, error_bind])

end Level

/-! ## Chains that go on -/

/-- A chain that goes on goes on for every smaller number of levels. -/
theorem indirectReach_of_le {s : State} {n k : Nat} {a b : Word} (h : IndirectReach s n a b)
    (fewer : k ≤ n) : ∃ c, IndirectReach s k a c := by
  induction h generalizing k with
  | here =>
    obtain rfl : k = 0 := by omega
    exact ⟨_, .here⟩
  | more w inside word zero base index flag _ ih =>
    cases k with
    | zero => exact ⟨_, .here⟩
    | succ k =>
      obtain ⟨c, rest⟩ := ih (k := k) (by omega)
      exact ⟨c, .more w inside word zero base index flag rest⟩

/-- A chain that goes on for all levels that may be read is too deep (40_memory_reference.md R132). -/
theorem indirect_tooDeep {s : State} {n k : Nat} {a b : Word} (h : IndirectReach s n a b)
    (deep : k ≤ n) : s.indirect k a = .error (.refusal .indirectTooDeep) := by
  obtain ⟨c, reach⟩ := indirectReach_of_le h deep
  rw [← Nat.add_zero k, indirect_of_reach reach, indirect_zero]

/-- An indirect address word that leads back to itself goes on for any number of levels. -/
theorem indirectReach_of_loop {s : State} {a : Word} (loop : IndirectReach s 1 a a) (n : Nat) :
    IndirectReach s n a a := by
  cases loop with
  | more w inside word zero base index flag rest =>
    generalize next : s.reg _ + _ + _ = c at rest
    cases rest
    subst word
    induction n with
    | zero => exact .here
    | succ n ih => exact indirectReach_cons inside zero base index flag next ih

/-- With `n` of its levels read, the calculation stops as what is left of it stops. -/
theorem indirect_of_reach_error {s : State} {n k : Nat} {a b : Word} {h : Halt}
    (reach : IndirectReach s n a b) (fewer : n < k)
    (stops : ∀ j, s.indirect (j + 1) b = .error h) : s.indirect k a = .error h := by
  obtain ⟨j, rfl⟩ : ∃ j, k = n + (j + 1) := ⟨k - n - 1, by omega⟩
  rw [indirect_of_reach reach, stops]

/-- Settles O16: the sum of the instruction word, and then the level that stops. -/
theorem effAddrStops : Obligations.EffAddrStops := by
  intro s m
  refine ⟨fun base => effAddr_of_address_error (address_taintedBase _ _ base),
    fun base index => effAddr_of_address_error (address_taintedIndex _ base index),
    fun base index flag n a reach => ?_⟩
  rw [effAddr_indirect base index flag]
  refine ⟨fun deep => indirect_tooDeep reach deep, fun more outside => ?_, fun more inside =>
    ⟨fun form => ?_, fun zero wordBase => ?_, fun zero wordBase wordIndex => ?_,
      fun zero wordBase wordIndex wordFlag next => ?_⟩⟩
  · exact indirect_of_reach_error reach more fun j => indirect_outside j outside
  · exact indirect_of_reach_error reach more fun j => indirect_wordForm j inside form
  · exact indirect_of_reach_error reach more fun j =>
      indirect_of_address_error j inside zero (address_taintedBase _ _ wordBase)
  · exact indirect_of_reach_error reach more fun j =>
      indirect_of_address_error j inside zero (address_taintedIndex _ wordBase wordIndex)
  · have loop : IndirectReach s 1 a a :=
      indirectReach_cons inside zero wordBase wordIndex wordFlag next .here
    exact indirect_of_reach_error reach more fun j =>
      indirect_tooDeep (indirectReach_of_loop loop (j + 1)) le_rfl

/-! ## The instruction stops as its address calculation does -/

theorem deliver_bind_error {α : Type} {x : Res α} {h : Halt} (stops : x = .error h)
    (f : α → Res State) : deliver (x >>= f) = deliver (.error h) := by
  rw [stops, error_bind]

/-- Settles O17: every meaning of a memory reference instruction begins with its address calculation
(40_memory_reference.md R133). -/
theorem addressStopsFirst : Obligations.AddressStopsFirst := by
  intro i m s h reference stops
  -- only the forms with address fields remain
  cases i <;> cases reference
  all_goals exact deliver_bind_error stops _

end Sys2Proof.Machine
end

section
/-! PROOFS. The shared updates of Sys2Proof/Machine/MemArith.lean and Operands.lean as the claims speak of
them: relations, integer results, products, quotients, double registers and
floating operands (40_memory_reference.md R135 to R137, R161, R162; 10_state.md R27). -/

namespace Sys2Proof.Machine

/-! ## Relations to zero -/

theorem holdsZero_ge_iff (v : Word) : holdsZero .ge v = true ↔ v.getLsbD 31 = false := by
  rw [holdsZero, Bool.not_eq_true']

theorem holdsZero_eq_iff (v : Word) : holdsZero .eq v = true ↔ v = 0 :=
  beq_iff_eq

theorem holdsZero_ne_iff (v : Word) : holdsZero .ne v = true ↔ v ≠ 0 :=
  bne_iff_ne

/-- Bit 31 is the sign. -/
theorem holdsZero_lt_iff_neg (v : Word) : holdsZero .lt v = true ↔ v.toInt < 0 := by
  have sign : v.getLsbD 31 = v.msb := (BitVec.msb_eq_getLsbD_last v).symm
  rw [holdsZero, sign, BitVec.msb_eq_toInt, decide_eq_true_eq]

theorem holdsZero_ge_iff_nonneg (v : Word) : holdsZero .ge v = true ↔ 0 ≤ v.toInt := by
  have sign := holdsZero_lt_iff_neg v
  rw [holdsZero] at sign
  rw [holdsZero_ge_iff, ← Bool.not_eq_true, sign, not_lt]

/-! ## Relations between words -/

theorem holdsInt_ge_toInt_iff (x y : Word) : holdsInt .ge x.toInt y.toInt = true ↔ y.toInt ≤ x.toInt :=
  decide_eq_true_iff

theorem holdsInt_lt_toInt_iff (x y : Word) : holdsInt .lt x.toInt y.toInt = true ↔ x.toInt < y.toInt :=
  decide_eq_true_iff

theorem holdsInt_ne_toInt_iff (x y : Word) : holdsInt .ne x.toInt y.toInt = true ↔ x ≠ y := by
  simp [holdsInt, BitVec.toInt_inj]

theorem holdsInt_eq_toInt_iff (x y : Word) : holdsInt .eq x.toInt y.toInt = true ↔ x = y := by
  simp [holdsInt, BitVec.toInt_inj]

/-! ## Integer results -/

theorem intWord_add (x y : Word) : intWord (x.toInt + y.toInt) = x + y := by
  rw [intWord, BitVec.ofInt_add, BitVec.ofInt_toInt, BitVec.ofInt_toInt]

theorem intWord_add_one (x y : Word) : intWord (x.toInt + y.toInt + 1) = x + y + 1 := by
  rw [intWord, BitVec.ofInt_add]
  exact congrArg (· + 1#32) (intWord_add x y)

theorem intWord_sub (x y : Word) : intWord (x.toInt - y.toInt) = x - y :=
  BitVec.eq_of_toInt_eq (by rw [intWord, BitVec.toInt_ofInt, BitVec.toInt_sub])

/-- A result in range is delivered as it is (40_memory_reference.md R136). -/
theorem toInt_intWord {v : Int} (inside : ¬OutOfRange v) : (intWord v).toInt = v := by
  rw [OutOfRange] at inside
  exact BitVec.toInt_ofInt_eq_self (by decide) (by omega) (by omega)

theorem not_outOfRange_toInt (x : Word) : ¬OutOfRange x.toInt := by
  have low := x.le_toInt
  have high := x.toInt_lt
  rw [OutOfRange]
  omega

section Update

variable (s : State) (r : Reg)

/-- A register result with a true integer value (40_memory_reference.md R136, 60_exceptions.md R372). -/
theorem setInt_result (v : Int) :
    Wrote (s.setInt r v) r (intWord v) false ∧ Continues s (s.setInt r v) ∧
      Unchanged s (s.setInt r v) [r] [.run] ∧ MonitorOn s (s.setInt r v) (OutOfRange v) := by
  have frame : Unchanged s (s.setReg r (intWord v)).next [r] [] := (Unchanged.refl.setReg _).next
  refine ⟨(wrote_setReg s r _).congr ?_ ?_, ⟨setInt_pc .., ?_⟩,
    (Unchanged.refl.setReg _).next.overflowCall _ _, frame.monitorOn (intOverflow_iff v)⟩
  all_goals simp [State.setInt]

/-- A register result that cannot overflow. -/
theorem setReg_next_result (v : Word) :
    Wrote (s.setReg r v).next r v false ∧ Continues s (s.setReg r v).next ∧
      Unchanged s (s.setReg r v).next [r] [.run] ∧ MonitorOn s (s.setReg r v).next False :=
  ⟨(wrote_setReg s r v).congr rfl rfl, ⟨by simp, by simp⟩, (Unchanged.refl.setReg v).next,
    monitorOn_of_run (by simp)⟩

theorem product_append (v : Int) : productHigh v ++ productLow v = BitVec.ofInt 64 v := by
  rw [productHigh, productLow]
  exact (BitVec.extractLsb'_append_extractLsb'_eq_extractLsb' rfl).trans BitVec.extractLsb'_eq_self

/-- A multiply (40_memory_reference.md R161, 41_inter_register.md R253). -/
theorem setProduct_result (v : Int) :
    Wrote (s.setProduct r v) r (productLow v) false ∧ (s.setProduct r v).regOR = productHigh v ∧
      Continues s (s.setProduct r v) ∧ Unchanged s (s.setProduct r v) [r] [.regOR, .run] ∧
      MonitorOn s (s.setProduct r v) (OutOfRange v) := by
  have frame : Unchanged s ((s.setExt .overflow (productHigh v)).setReg r (productLow v)).next [r]
      [.regOR] := ((Unchanged.refl.setOR _).setReg _).next
  refine ⟨(wrote_setReg (s.setExt .overflow (productHigh v)) r _).congr ?_ ?_, ?_,
    ⟨setProduct_pc .., ?_⟩, ((Unchanged.refl.setOR _).setReg _).next.overflowCall _ _,
    frame.monitorOn (intOverflow_iff v)⟩
  all_goals simp [setProduct_eq]

/-- A divide (40_memory_reference.md R162, 41_inter_register.md R253). -/
theorem setQuotient_result {n d : Word} {c : Prop} (overflow : divisionOverflow n d = true ↔ c) :
    Wrote (s.setQuotient r n d) r (quotient n d) false ∧
      (s.setQuotient r n d).regRR = remainder n d ∧ Continues s (s.setQuotient r n d) ∧
      Unchanged s (s.setQuotient r n d) [r] [.regRR, .run] ∧
      MonitorOn s (s.setQuotient r n d) c := by
  have frame : Unchanged s ((s.setExt .remainder (remainder n d)).setReg r (quotient n d)).next [r]
      [.regRR] := ((Unchanged.refl.setRR _).setReg _).next
  refine ⟨(wrote_setReg (s.setExt .remainder (remainder n d)) r _).congr ?_ ?_, ?_,
    ⟨setQuotient_pc .., ?_⟩, ((Unchanged.refl.setRR _).setReg _).next.overflowCall _ _,
    frame.monitorOn overflow⟩
  all_goals simp [setQuotient_eq]

end Update

/-! ## Division -/

/-- The one quotient of two words that no word holds: -2^31 / -1 = 2^31. -/
def DivisionCorner (n d : Word) : Prop :=
  n = 0x80000000 ∧ d = 0xFFFFFFFF

theorem quotient_inside {n d : Word} (corner : ¬DivisionCorner n d) :
    ¬OutOfRange (n.toInt.tdiv d.toInt) := by
  have bounded : (n.sdiv d).toInt = n.toInt.tdiv d.toInt :=
    BitVec.toInt_sdiv_of_ne_or_ne n d (not_and_or.mp corner)
  exact bounded ▸ not_outOfRange_toInt _

theorem remainder_inside (n d : Word) : ¬OutOfRange (n.toInt.tmod d.toInt) :=
  BitVec.toInt_srem n d ▸ not_outOfRange_toInt _

theorem divisionOverflow_iff (n d : Word) : divisionOverflow n d = true ↔ DivisionCorner n d := by
  rw [divisionOverflow, intOverflow_iff]
  constructor
  · exact fun outside => not_not.mp fun corner => quotient_inside corner outside
  · rintro ⟨rfl, rfl⟩
    exact .inr (by decide)

theorem divisionOpen_eq_false {n d : Word} (nonzero : d ≠ 0) (corner : ¬DivisionCorner n d) :
    divisionOpen n d = false := by
  have nonzero' : (d == 0#32) = false := beq_false_of_ne nonzero
  rw [divisionOpen, nonzero', Bool.false_or]
  simpa [DivisionCorner] using corner

theorem toInt_quotient {n d : Word} (nonzero : d ≠ 0) (corner : ¬DivisionCorner n d) :
    (quotient n d).toInt = n.toInt.tdiv d.toInt := by
  rw [quotient, divisionOpen_eq_false nonzero corner, if_neg Bool.false_ne_true,
    toInt_intWord (quotient_inside corner)]

theorem toInt_remainder {n d : Word} (nonzero : d ≠ 0) (corner : ¬DivisionCorner n d) :
    (remainder n d).toInt = n.toInt.tmod d.toInt := by
  rw [remainder, divisionOpen_eq_false nonzero corner, if_neg Bool.false_ne_true,
    toInt_intWord (remainder_inside n d)]

/-- A truncating division leaves a remainder of the dividend's sign. -/
theorem tmod_eq_zero_or_neg_iff (a b : Int) : a.tmod b = 0 ∨ (a.tmod b < 0 ↔ a < 0) := by
  have sign := Int.sign_tmod a b
  split at sign
  · exact .inl (Int.sign_eq_zero_iff_zero.mp sign)
  · rw [← Int.sign_eq_neg_one_iff_neg, sign, Int.sign_eq_neg_one_iff_neg]
    exact .inr Iff.rfl

/-- Outside the two open cases, dividend = quotient * divisor + remainder (40_memory_reference.md
R162; log 9). -/
theorem division_spec {n d : Word} (nonzero : d ≠ 0) (corner : ¬DivisionCorner n d) :
    n.toInt = (quotient n d).toInt * d.toInt + (remainder n d).toInt ∧
      (remainder n d).toInt.natAbs < d.toInt.natAbs ∧
      ((remainder n d).toInt = 0 ∨ ((remainder n d).toInt < 0 ↔ n.toInt < 0)) := by
  rw [toInt_quotient nonzero corner, toInt_remainder nonzero corner]
  refine ⟨(Int.tdiv_mul_add_tmod ..).symm, ?_, tmod_eq_zero_or_neg_iff ..⟩
  have divisor : d.toInt ≠ 0 := fun zero => nonzero (BitVec.eq_of_toInt_eq zero)
  rw [Int.natAbs_tmod]
  exact Nat.mod_lt _ (Int.natAbs_pos.mpr divisor)

/-! ## Double registers and floating operands -/

/-- The two halves of a double register are 16 cells apart (10_state.md R27). -/
theorem cellHigh_ne_cellLow (f : FReg) : cellHigh f ≠ cellLow f := by
  intro same
  have y : (f.bits false).getLsbD 4 = (f.bits true).getLsbD 4 := congrArg (BitVec.getLsbD · 4) same
  rw [FReg.yBit_bits, FReg.yBit_bits] at y
  exact Bool.false_ne_true y

theorem double_high (x y : Word) : (x ++ y).extractLsb' 32 32 = x := by
  rw [extract_append_high _ _ _ _ (by decide), BitVec.extractLsb'_eq_self]

theorem double_low (x y : Word) : (x ++ y).extractLsb' 0 32 = y := by
  rw [extract_append_low _ _ _ _ (by decide), BitVec.extractLsb'_eq_self]

theorem loadFloat_single {s : State} {a : Word} (inside : a.toNat < s.params.memWords) :
    s.loadFloat .single a = .ok (s.mem.readWord a.toNat).toNat := by
  rw [State.loadFloat, load_inside _ inside, ok_bind, pure_ok]

theorem loadFloat_double {s : State} {a : Word} (inside : a.toNat < s.params.memWords)
    (inside' : (a + 1).toNat < s.params.memWords) :
    s.loadFloat .double a =
      .ok (s.mem.readWord a.toNat ++ s.mem.readWord (a + 1).toNat).toNat := by
  rw [State.loadFloat, load2_ok_iff.mpr ⟨inside, inside', rfl⟩, ok_bind, pure_ok]

theorem wrote_setFD (s : State) (f : FReg) (v : DWord) :
    Wrote (s.setFD f v) (cellHigh f) (v.extractLsb' 32 32) false ∧
      Wrote (s.setFD f v) (cellLow f) (v.extractLsb' 0 32) false :=
  ⟨(wrote_setReg ..).writeReg (cellHigh_ne_cellLow f), wrote_setReg ..⟩

theorem wrote_setTaintedFD (s : State) (f : FReg) (v : DWord) :
    Wrote (s.setTaintedFD f v) (cellHigh f) (v.extractLsb' 32 32) true ∧
      Wrote (s.setTaintedFD f v) (cellLow f) (v.extractLsb' 0 32) true :=
  ⟨(wrote_setTaintedReg ..).writeReg (cellHigh_ne_cellLow f), wrote_setTaintedReg ..⟩

end Sys2Proof.Machine
end

section
/-! PROOFS. What each memory reference instruction leaves (40_memory_reference.md R138, R140 to R172): one
lemma per shared meaning, then the instructions. -/

namespace Sys2Proof.Machine

/-- The statements list their instructions four at a time. -/
theorem mem_four_iff {α : Type} {x a b c d : α} :
    x ∈ [a, b, c, d] ↔ x = a ∨ x = b ∨ x = c ∨ x = d := by
  simp

/-! ## Tested values -/

/-- The value that JPM, JNM, JZM and JFM test (92_eei_decisions.md D18): register 0 read back is zero. -/
def modifyTested (s : State) (r : BitVec 4) : Word :=
  if r = 0 ∧ s.params.r0DestTest = .reread then 0 else s.reg (lowReg r) + s.reg (modReg r)

theorem tested_setReg_sum (s : State) (r : BitVec 4) :
    (s.setReg (lowReg r) (s.reg (lowReg r) + s.reg (modReg r))).tested (lowReg r)
      (s.reg (lowReg r) + s.reg (modReg r)) = modifyTested s r := by
  unfold State.tested modifyTested
  cases test : s.params.r0DestTest with
  | result => simp [test]
  | reread =>
    by_cases zero : r = 0#4
    · subst zero
      simp [test, show lowReg 0#4 = 0#6 from rfl]
    · simp [test, zero]

/-! ## The parts of a meaning -/

/-- Once a part of a meaning has its value, the rest decides. -/
theorem deliver_bind_ok {α : Type} {x : Res α} {a : α} (h : x = .ok a) (f : α → Res State) :
    deliver (x >>= f) = deliver (f a) := by
  rw [h, ok_bind]

/-! ## Jumps -/

section Addressed

variable {s : State} {m : MemRef} {ea : Word} (addressed : s.effAddr m = .ok ea)
include addressed

theorem jumpOn_result {rl : Relation} {r : Reg} {c : Prop}
    (test : holdsZero rl (s.reg r) = true ↔ c) :
    ∃ t, jumpOn rl r m s = .next t ∧ JumpsIf s t c ea ∧ Unchanged s t [] [] :=
  ⟨_, deliver_bind_ok addressed _, jumpsIf_of_test test, Unchanged.refl.jumpIf ..⟩

theorem modifyJump_result {rl : Relation} {r : BitVec 4} {c : Prop}
    (test : holdsZero rl (modifyTested s r) = true ↔ c) :
    ∃ t, modifyJump rl r m s = .next t ∧
      Wrote t (lowReg r) (s.reg (lowReg r) + s.reg (modReg r)) false ∧ JumpsIf s t c ea ∧
      Unchanged s t [lowReg r] [.run] ∧
      MonitorOn s t (OutOfRange ((s.reg (lowReg r)).toInt + (s.reg (modReg r)).toInt)) := by
  rw [← tested_setReg_sum, ← intWord_add] at test
  rw [← intWord_add]
  have frame {ps : List Part} (v : Word) (b : Bool) :
      Unchanged s ((s.setReg (lowReg r) v).jumpIf b ea) [lowReg r] ps :=
    (Unchanged.refl.setReg v).jumpIf ..
  exact ⟨_, deliver_bind_ok addressed _, (wrote_setReg s ..).congr (by simp) (by simp),
    jumpsIf_of_test test, (frame ..).overflowCall ..,
    (frame (ps := []) ..).monitorOn (intOverflow_iff _)⟩

/-! ## Operands -/

section Operand

variable (inside : ea.toNat < s.params.memWords)
include inside

theorem deliver_operand (f : Word → Word → Res State) :
    deliver (s.effAddr m >>= fun a => s.load .read a >>= f a) =
      deliver (f ea (s.mem.readWord ea.toNat)) := by
  rw [deliver_bind_ok addressed, deliver_bind_ok (load_inside _ inside)]

theorem compareSkip_result {rl : Relation} {r : Reg} {c : Prop}
    (test : holdsInt rl (s.reg r).toInt (s.mem.readWord ea.toNat).toInt = true ↔ c) :
    ∃ t, compareSkip rl r m s = .next t ∧ SkipsIf s t c ∧ Unchanged s t [] [] :=
  ⟨_, deliver_operand addressed inside _, skipsIf_of_test test, Unchanged.refl.skipIf _⟩

/-- FAD, FSB, FMU, FDV (40_memory_reference.md R165, R167, R169, R171). -/
theorem floatMemory_single_result (op : ArithOp) (f : FReg) :
    let res := floatArith op .single (s.f f).toNat (s.mem.readWord ea.toNat).toNat
    ∃ t, floatMemory op .single f m s = .next t ∧
      Wrote t (cellHigh f) (BitVec.ofNat 32 res.bits) true ∧
      t.ovf = (s.ovf || res.event == .overflow) ∧ t.unf = (s.unf || res.event == .underflow) ∧
      Continues s t ∧ Unchanged s t [cellHigh f] [.flags] := by
  intro res
  have runs : floatMemory op .single f m s =
      .next ((s.setTaintedReg (cellHigh f) (BitVec.ofNat 32 res.bits)).note res.event).next :=
    (deliver_bind_ok addressed _).trans (deliver_bind_ok (loadFloat_single inside) _)
  refine ⟨_, runs, (wrote_setTaintedReg s ..).congr (by simp) (by simp), ?_, ?_, ⟨?_, ?_⟩,
    ((Unchanged.refl.setTaintedReg _).note _).next⟩
  all_goals simp

/-- FADD, FSBD, FMUD, FDVD (40_memory_reference.md R166, R168, R170, R172). -/
theorem floatMemory_double_result (inside' : (ea + 1).toNat < s.params.memWords) (op : ArithOp)
    (f : FReg) :
    let res := floatArith op .double (s.fd f).toNat
      (s.mem.readWord ea.toNat ++ s.mem.readWord (ea + 1).toNat).toNat
    ∃ t, floatMemory op .double f m s = .next t ∧
      Wrote t (cellHigh f) ((BitVec.ofNat 64 res.bits).extractLsb' 32 32) true ∧
      Wrote t (cellLow f) ((BitVec.ofNat 64 res.bits).extractLsb' 0 32) true ∧
      t.ovf = (s.ovf || res.event == .overflow) ∧ t.unf = (s.unf || res.event == .underflow) ∧
      Continues s t ∧ Unchanged s t [cellHigh f, cellLow f] [.flags] := by
  intro res
  have runs : floatMemory op .double f m s =
      .next ((s.setTaintedFD f (BitVec.ofNat 64 res.bits)).note res.event).next :=
    (deliver_bind_ok addressed _).trans (deliver_bind_ok (loadFloat_double inside inside') _)
  obtain ⟨high, low⟩ := wrote_setTaintedFD s f (BitVec.ofNat 64 res.bits)
  refine ⟨_, runs, high.congr (by simp) (by simp), low.congr (by simp) (by simp), ?_, ?_, ⟨?_, ?_⟩,
    ((Unchanged.refl.setTaintedFD _).note _).next⟩
  all_goals simp [State.setTaintedFD]

end Operand

end Addressed

/-! ## The obligations -/

/-- Settles O20: the link, then the jump. -/
theorem rtjResult : Obligations.RtjResult := by
  intro s r m ea addressed
  exact ⟨decodeWord_encode (.rtj r m), _, deliver_bind_ok addressed _,
    (wrote_setReg ..).congr rfl rfl, rfl, rfl, (Unchanged.refl.setReg _).jump _⟩

/-- Settles O21: each function code's relation of the register to zero. -/
theorem jumpResult : Obligations.JumpResult := by
  intro s r m ea addressed i fc c listed
  obtain same | same | same | same := mem_four_iff.mp listed <;> cases same
  · exact ⟨decodeWord_encode (.jrp r m), jumpOn_result addressed (holdsZero_ge_iff _)⟩
  · exact ⟨decodeWord_encode (.jrn r m), jumpOn_result addressed Iff.rfl⟩
  · exact ⟨decodeWord_encode (.jrz r m), jumpOn_result addressed (holdsZero_eq_iff _)⟩
  · exact ⟨decodeWord_encode (.jrf r m), jumpOn_result addressed (holdsZero_ne_iff _)⟩

/-- Settles O22: each instruction's relation of the tested value to zero. -/
theorem modifyJumpResult : Obligations.ModifyJumpResult := by
  intro s r m ea addressed v tested i c listed
  obtain same | same | same | same := mem_four_iff.mp listed <;> cases same
  · exact modifyJump_result addressed (holdsZero_ge_iff_nonneg _)
  · exact modifyJump_result addressed (holdsZero_lt_iff_neg _)
  · exact modifyJump_result addressed (holdsZero_eq_iff _)
  · exact modifyJump_result addressed (holdsZero_ne_iff _)

/-- Settles O23: each function code's relation of the register to the memory word. -/
theorem compareResult : Obligations.CompareResult := by
  intro s r m ea addressed inside x y i fc c listed
  obtain same | same | same | same := mem_four_iff.mp listed <;> cases same
  · exact ⟨decodeWord_encode (.crg r m),
      compareSkip_result addressed inside (holdsInt_ge_toInt_iff x y)⟩
  · exact ⟨decodeWord_encode (.crl r m),
      compareSkip_result addressed inside (holdsInt_lt_toInt_iff x y)⟩
  · exact ⟨decodeWord_encode (.cre r m),
      compareSkip_result addressed inside (holdsInt_eq_toInt_iff x y)⟩
  · exact ⟨decodeWord_encode (.crd r m),
      compareSkip_result addressed inside (holdsInt_ne_toInt_iff x y)⟩

/-- Settles O24: the sum is stored, and it decides the skip. -/
theorem minResult : Obligations.MinResult := by
  intro s r m ea canonical addressed inside
  dsimp only
  rw [← intWord_add_one]
  obtain ⟨u, stored⟩ :
      ∃ u, s.store ea (intWord ((s.mem.readWord ea.toNat).toInt + (s.reg r).toInt + 1)) = .ok u :=
    ⟨_, store_inside _ inside⟩
  have frame (b : Bool) : Unchanged s (u.skipIf b) [] [.memory] :=
    (Unchanged.refl.store stored).skipIf b
  refine ⟨_, (deliver_operand addressed inside _).trans (deliver_bind_ok stored _),
    readWord_of_store canonical stored, memoryBut_of_store stored, fun zero => ?_,
    fun (nonzero : _ ≠ 0#32) => ?_, ((Unchanged.refl.store stored).skipIf _).overflowCall ..,
    (frame _).monitorOn (intOverflow_iff _)⟩
  · simp [zero, store_pc stored]
  · exact buffersOld_of_store stored (by simp [nonzero]) (by simp [nonzero])

/-- Settles O25: the two sums and the two words that cannot overflow. -/
theorem loadResult : Obligations.LoadResult := by
  intro s r m ea addressed inside x y i v overflow listed
  obtain same | same | same | same := mem_four_iff.mp listed <;> cases same
  · exact ⟨_, deliver_operand addressed inside _, intWord_add x y ▸ setInt_result s r _⟩
  · exact ⟨_, deliver_operand addressed inside _, intWord_sub x y ▸ setInt_result s r _⟩
  · exact ⟨_, deliver_operand addressed inside _, setReg_next_result s r _⟩
  · exact ⟨_, deliver_operand addressed inside _, setReg_next_result s r _⟩

/-- Settles O26: each of the three ends with one store to Ea. -/
theorem storeResult : Obligations.StoreResult := by
  intro s r m ea canonical addressed inside x y
  have stores (v : Word) : ∃ u, s.store ea v = .ok u := ⟨_, store_inside v inside⟩
  refine ⟨?adm, ?xmr, ?str⟩
  case adm =>
    obtain ⟨u, stored⟩ := stores (intWord (y.toInt + x.toInt))
    have frame : Unchanged s u.next [] [.memory] := (Unchanged.refl.store stored).next
    rw [← intWord_add]
    exact ⟨_, (deliver_operand addressed inside _).trans (deliver_bind_ok stored _),
      readWord_of_store canonical stored, memoryBut_of_store stored, buffersOld_of_store stored,
      (Unchanged.refl.store stored).next.overflowCall .., frame.monitorOn (intOverflow_iff _)⟩
  case xmr =>
    obtain ⟨u, stored⟩ := stores x
    exact ⟨_, (deliver_operand addressed inside _).trans (deliver_bind_ok stored _),
      readWord_of_store canonical stored, memoryBut_of_store stored, buffersOld_of_store stored,
      (wrote_setReg u ..).congr rfl rfl, ((Unchanged.refl.store stored).setReg _).next⟩
  case str =>
    obtain ⟨u, stored⟩ := stores x
    exact ⟨_, (deliver_bind_ok addressed _).trans (deliver_bind_ok stored _),
      readWord_of_store canonical stored, memoryBut_of_store stored, buffersOld_of_store stored,
      (Unchanged.refl.store stored).next⟩

/-- Settles O27: OR and the register are the two words of the product. -/
theorem mpyResult : Obligations.MpyResult := by
  intro s r m ea addressed inside product
  obtain ⟨wrote, high, continues, frame, monitor⟩ := setProduct_result s r product
  exact ⟨_, _, deliver_operand addressed inside _, wrote, high ▸ product_append product, continues,
    frame, monitor⟩

/-- Settles O28: the quotient goes to the register, the remainder to RR. -/
theorem divResult : Obligations.DivResult := by
  intro s r m ea addressed inside n d corner
  obtain ⟨wrote, rest, continues, frame, monitor⟩ := setQuotient_result s r (divisionOverflow_iff n d)
  refine ⟨_, _, deliver_operand addressed inside _, wrote, continues, frame, monitor, ?_⟩
  intro nonzero noCorner
  exact rest ▸ division_spec nonzero noCorner

/-- Settles O29: the pair and the two words, by the double load and the double store. -/
theorem doubleMoveResult : Obligations.DoubleMoveResult := by
  intro s fd m ea canonical addressed inside inside' hi lo
  refine ⟨?ldd, ?std⟩
  case ldd =>
    have loaded := load2_ok_iff.mpr ⟨inside, inside', rfl⟩
    obtain ⟨high, low⟩ := wrote_setFD s fd.reg
      (s.mem.readWord ea.toNat ++ s.mem.readWord (ea + 1).toNat)
    rw [double_high] at high
    rw [double_low] at low
    have frame (v : DWord) :
        Unchanged s (s.setFD fd.reg v).next [cellHigh fd.reg, cellLow fd.reg] [] :=
      (Unchanged.refl.setFD v).next
    exact ⟨_, (deliver_bind_ok addressed _).trans (deliver_bind_ok loaded _), high.congr rfl rfl,
      low.congr rfl rfl, ⟨by simp, by simp [State.setFD]⟩, frame _⟩
  case std =>
    obtain ⟨u, stored⟩ : ∃ u, s.store2 ea (s.reg hi) (s.reg lo) = .ok u :=
      exists_store2_iff.mpr ⟨inside, inside'⟩
    obtain ⟨high, low⟩ := store2_readWord canonical stored
    have outside : MemoryBut s u ea 2 := store2_memoryBut stored
    have pending : Pending [ea, ea + 1] s u := Pending.refl.store2 stored
    refine ⟨_, (deliver_bind_ok addressed _).trans (deliver_bind_ok stored _), high, low, outside,
      congrArg (· + 1) pending.pc, fun empty => ?_, (Unchanged.refl.store2 stored).next⟩
    rw [next_nib, pending.nib, bufferAfter, empty]
    simp

/-- Settles O30: the four functions in each precision. -/
theorem floatMemoryResult : Obligations.FloatMemoryResult := by
  intro s f m ea addressed inside
  refine ⟨fun i op listed => ?single, fun inside' i op listed => ?double⟩
  case single =>
    obtain same | same | same | same := mem_four_iff.mp listed <;> cases same
    all_goals exact floatMemory_single_result addressed inside _ f
  case double =>
    obtain same | same | same | same := mem_four_iff.mp listed <;> cases same
    all_goals exact floatMemory_double_result addressed inside inside' _ f

end Sys2Proof.Machine
end

section
/-! PROOFS. Completion on ordinary data (40_memory_reference.md R136, 60_exceptions.md R372, R373), what EXC
runs and where it stops (R139), and words that the spec names: the reserved codes (R158,
41_inter_register.md R242) and the worked examples. -/

namespace Sys2Proof.Machine

/-! ## Completion -/

/-- The instruction has a next state. -/
def HasNext (o : Outcome) : Prop :=
  ∃ t, o = .next t

theorem hasNext_next (t : State) : HasNext (.next t) :=
  ⟨t, rfl⟩

/-- A meaning has a next state when its first part succeeds and the rest has one. -/
theorem hasNext_bind {α : Type} {x : Res α} {a : α} {f : α → Res State} (h : x = .ok a)
    (rest : HasNext (deliver (f a))) : HasNext (deliver (x >>= f)) := by
  rwa [deliver_bind_ok h]

/-- An inter-register or argument instruction other than RFC 11 computes its next state outright. -/
theorem exec_hasNext_register {i : Instr} (s : State) (h : registerOnly i = true) :
    HasNext (exec i s) := by
  cases i
  case exc | fc21 | rfc11 | rtj | min | crg | crl | cre | crd | jrp | jrn | jrz | jrf | jpm | jnm | jzm |
      jfm | add | sub | and | ldr | adm | xmr | str | mpy | div | ldd | std | fad | fadd | fsb | fsbd |
      fmu | fmud | fdv | fdvd =>
    cases h
  case rio write _ _ _ => cases write <;> exact hasNext_next _
  case iroMulDiv divide _ _ _ => cases divide <;> exact hasNext_next _
  all_goals exact hasNext_next _

section Memory

variable {s : State} {ea : Word} {m : MemRef} (addressed : s.effAddr m = .ok ea)
include addressed

/-- A memory reference instruction has a next state once Ea is known and its operand lies in memory. -/
theorem exec_hasNext_memory {i : Instr} (reference : memRef i = some m)
    (single : operandAccess i ≠ none → ea.toNat < s.params.memWords)
    (double : doubleOperand i = true → (ea + 1).toNat < s.params.memWords) :
    HasNext (exec i s) := by
  -- only the forms with address fields remain
  cases i <;> cases reference
  case rtj | jrp | jrn | jrz | jrf | jpm | jnm | jzm | jfm =>
    exact hasNext_bind addressed (hasNext_next _)
  case crg | crl | cre | crd | add | sub | and | ldr | mpy | div =>
    exact hasNext_bind addressed (hasNext_bind (load_inside _ (single nofun)) (hasNext_next _))
  case min | adm | xmr =>
    have inside := single nofun
    exact hasNext_bind addressed (hasNext_bind (load_inside _ inside)
      (hasNext_bind (store_inside _ inside) (hasNext_next _)))
  case str =>
    exact hasNext_bind addressed (hasNext_bind (store_inside _ (single nofun)) (hasNext_next _))
  case ldd =>
    obtain ⟨_, loaded⟩ := exists_load2_iff.mpr ⟨single nofun, double rfl⟩
    exact hasNext_bind addressed (hasNext_bind loaded (hasNext_next _))
  case std =>
    obtain ⟨_, stored⟩ := exists_store2_iff.mpr ⟨single nofun, double rfl⟩
    exact hasNext_bind addressed (hasNext_bind stored (hasNext_next _))
  case fad | fsb | fmu | fdv =>
    exact hasNext_bind addressed
      (hasNext_bind (loadFloat_single (single nofun)) (hasNext_next _))
  case fadd | fsbd | fmud | fdvd =>
    exact hasNext_bind addressed
      (hasNext_bind (loadFloat_double (single nofun) (double rfl)) (hasNext_next _))

end Memory

theorem registerOnly_noExc {i : Instr} (h : registerOnly i = true) : isExc i = false := by
  cases i <;> first | rfl | cases h

theorem registerOnly_memRef {i : Instr} (h : registerOnly i = true) : memRef i = none := by
  cases i <;> first | rfl | cases h

/-- Settles O19: the register instructions store to no word, the memory reference instructions complete
once their operands are in memory. -/
theorem ordinaryDataCompletes : Obligations.OrdinaryDataCompletes := by
  refine ⟨fun i s register => ?_, fun i m s ea reference addressed single double =>
    exec_hasNext_memory addressed reference single double⟩
  obtain ⟨t, runs⟩ := exec_hasNext_register s register
  have stores := exec_completes_register s (registerOnly_noExc register) (registerOnly_memRef register)
  exact ⟨t, runs, fun a => (stores.of_next t runs).bytes a nofun⟩

/-! ## EXC -/

/-- What a word of function code 2 decodes to is an EXC (30_encoding.md R97). -/
theorem isExc_of_decodeWord {w : Word} {i : Instr} (code : fieldFC w = 2#5)
    (decoded : decodeWord w = .ok i) : isExc i = true := by
  obtain ⟨j, parent, rfl⟩ := decodeWord_ok_iff.mp decoded
  have word : decodeParent w = decodeExc w := by simp [decodeParent, decodeMemory, code]
  obtain ⟨_, ⟨_, rfl⟩ | ⟨_, rfl⟩⟩ := decodeExc_ok_iff.mp (word.symm.trans parent) <;> rfl

/-- With its word known, EXC treats it as that word (40_memory_reference.md R139). -/
theorem execExc_of_operand {form : ExcForm} {x b : BitVec 4} {d : BitVec 12} {s : State} {ea w : Word}
    (addressed : s.effAddr ⟨false, x, b, d⟩ = .ok ea)
    (memory : form = .memory → ea.toNat < s.params.memWords ∧ w = s.mem.readWord ea.toNat)
    (immediate : form = .immediate → w = ea) : execExc form x b d s = executeWord w s := by
  refine execExc_of_ok (bind_ok_iff.mpr ⟨ea, addressed, ?_⟩)
  cases form with
  | memory => exact load_ok_iff.mpr (memory rfl)
  | immediate => exact congrArg Except.ok (immediate rfl).symm

theorem executeWord_of_decode {w : Word} {i : Instr} (decoded : decodeWord w = .ok i)
    (other : isExc i = false) (s : State) : executeWord w s = exec i { s with ir := w } := by
  have code : fieldFC w ≠ 2#5 := fun code =>
    Bool.false_ne_true (other.symm.trans (isExc_of_decodeWord code decoded))
  rw [executeWord, if_neg code, decoded]
  exact execTarget_of_not_exc other _

/-- Settles O31: EXC is its word's instruction, which completes and moves P by the rules of all
instructions. -/
theorem excRuns : Obligations.ExcRuns := by
  intro s form x b d ea w i addressed memory immediate decoded other
  have runs : exec (.exc form x b d) s = exec i { s with ir := w } :=
    (execExc_of_operand addressed memory immediate).trans (executeWord_of_decode decoded other s)
  refine ⟨runs, fun register => ?_⟩
  obtain ⟨t, next⟩ := exec_hasNext_register { s with ir := w } register
  exact ⟨t, runs.trans next, ((exec_within i _ other).of_next t next).ir,
    fun noControl => (exec_advances i { s with ir := w } noControl).pc_of_next t next⟩

/-- Settles O32: EXC stops with the calculation of its word, and with that word. -/
theorem excStops : Obligations.ExcStops := by
  intro s form x b d
  refine ⟨fun h stops => ?_, fun ea addressed => ⟨fun isMemory outside => ?_,
    fun w memory immediate => ⟨fun code => ?_, fun u noExc undefined => ?_⟩⟩⟩
  · exact execExc_of_error (by rw [excWord, stops, error_bind])
  · subst isMemory
    have word : excWord .memory x b d s = .error (.fault (.addressOutOfRange .read ea)) := by
      rw [excWord, addressed, ok_bind]
      exact load_outside _ outside
    exact execExc_of_error word
  · exact (execExc_of_operand addressed memory immediate).trans (if_pos code)
  · have code : fieldFC w ≠ 2#5 := noExc
    refine (execExc_of_operand addressed memory immediate).trans ?_
    rw [executeWord, if_neg code, undefined]

/-! ## Words that the spec names -/

theorem decodeParent_fc21 {w : Word} (code : fieldFC w = 21#5) :
    decodeParent w = .ok (.fc21 (fieldR w) (fieldMem w)) := by
  simp [decodeParent, decodeMemory, code]

theorem decodeParent_rfc11 {w : Word} (code : fieldFC w = 0#5) (group : w.getLsbD 31 = false)
    (rfc : fieldRFC w = 11#4) :
    decodeParent w = .ok (.rfc11 (fieldRSC w) (w.extractLsb' 0 18)) := by
  simp only [decodeParent, decodeInterRegister, code, group, rfc, if_true, Bool.false_eq_true, if_false]

/-- Settles O34: each reserved code has one row, whose meaning is its refusal. -/
theorem reservedRefused : Obligations.ReservedRefused :=
  ⟨fun _ code => ⟨_, _, decodeWord_of_parent (decodeParent_fc21 code) rfl⟩,
    fun _ code group rfc => ⟨_, _, decodeWord_of_parent (decodeParent_rfc11 code group rfc) rfl⟩,
    fun _ _ _ => rfl, fun _ _ _ => rfl⟩

end Sys2Proof.Machine

namespace Sys2Proof

/-- A word decodes to the well-formed instruction whose word it is. -/
theorem decodeWord_of_encode {w : Word} {i : Instr} (wellFormed : i.wellFormed = true)
    (word : encode i = w) : decodeWord w = .ok i :=
  word ▸ decodeEncode i wellFormed

/-- Settles O10: each word is its instruction's. -/
theorem decodedWords : Obligations.DecodedWords := by
  refine ⟨?_, ?_, ?_, ?_, ?_, ?_, ?_, ?_, ?_, ?_, ?_, ?_⟩
  all_goals exact decodeWord_of_encode rfl rfl

end Sys2Proof
end

section
/-! PROOFS. What the inter-register instructions on words leave (41_inter_register.md R201 to R223, R230 to
R241): the monitor call, register input/output, shifts, single bits and logic. -/

namespace Sys2Proof.Machine

/-! ## The shared updates -/

section Update

variable (s : State)

/-- A word to one register, and on to P + 1. -/
theorem setReg_next_writes (r : Reg) (v : Word) :
    Wrote (s.setReg r v).next r v false ∧ Continues s (s.setReg r v).next ∧
      Unchanged s (s.setReg r v).next [r] [] :=
  ⟨(wrote_setReg s r v).congr rfl rfl, ⟨by simp, by simp⟩, (Unchanged.refl.setReg v).next⟩

theorem setTaintedFD_next_writes (f : FReg) (v : DWord) :
    Wrote (s.setTaintedFD f v).next (cellHigh f) (v.extractLsb' 32 32) true ∧
      Wrote (s.setTaintedFD f v).next (cellLow f) (v.extractLsb' 0 32) true ∧
      Continues s (s.setTaintedFD f v).next ∧
      Unchanged s (s.setTaintedFD f v).next [cellHigh f, cellLow f] [] := by
  obtain ⟨high, low⟩ := wrote_setTaintedFD s f v
  refine ⟨high.congr rfl rfl, low.congr rfl rfl, ⟨?_, ?_⟩, (Unchanged.refl.setTaintedFD v).next⟩
  all_goals simp [State.setTaintedFD]

/-- A word to OR or RR, and on to P + 1. -/
theorem setExt_next_writes (e : ExtReg) (v : Word) :
    (s.setExt e v).next.regOR = (if e = .overflow then v else s.regOR) ∧
      (s.setExt e v).next.regRR = (if e = .remainder then v else s.regRR) ∧
      Continues s (s.setExt e v).next ∧ Unchanged s (s.setExt e v).next [] [.regOR, .regRR] := by
  refine ⟨by simp, by simp, ⟨by simp, by simp⟩, ?_⟩
  cases e with
  | overflow => exact (Unchanged.refl.setOR v).next
  | remainder => exact (Unchanged.refl.setRR v).next

/-- The value that BSZ and BSO test after the copy (92_eei_decisions.md D18): register 0 read back is
zero. -/
theorem tested_setReg (r : Reg) (v : Word) :
    (s.setReg r v).tested r v = if r = 0 ∧ s.params.r0DestTest = .reread then 0 else v := by
  unfold State.tested
  cases test : s.params.r0DestTest with
  | result => simp [test]
  | reread =>
    by_cases zero : r = 0#6
    · subst zero
      simp [test]
    · simp [test, zero]

end Update

/-! ## The words of STOP -/

theorem setWidth_eq_encodeIR18 (code : BitVec 18) : code.setWidth 32 = encodeIR18 0 0 code :=
  BitVec.setWidth_eq_append (by decide)

/-- RFC 0 with another RSC than 0 (30_encoding.md R101). -/
theorem decodeWord_stopSubcode {w : Word} (code : fieldFC w = 0#5) (high : w.extractLsb' 27 5 = 0#5)
    (rsc : fieldRSC w ≠ 0#4) : decodeWord w = .error .stopSubcode := by
  have group : w.getLsbD 31 = false := by
    rw [← getLsbD_field w (show 4 < 5 by decide), high, BitVec.getLsbD_zero]
  have rfc : fieldRFC w = 0#4 := by
    rw [fieldRFC, ← extractLsb'_extractLsb' w (show 0 + 4 ≤ 5 by decide), high]
    rfl
  have parent : decodeParent w = .error .stopSubcode := by
    simp only [decodeParent, decodeInterRegister, code, group, rfc, rsc, if_true, if_false,
      Bool.false_eq_true]
  rw [decodeWord, parent]

/-! ## Shifts bit by bit -/

section Shift

variable {w : Nat} (sm : ShiftMode) (v : BitVec w) {n i : Nat} (count : n < w) (bit : i < w)
include count bit

theorem getLsbD_shiftRight : (shiftRight sm v n).getLsbD i = rightBit sm v n i := by
  have rotated : (v.rotateRight n).getLsbD i = v.getLsbD ((i + n) % w) := by
    rw [BitVec.getLsbD_rotateRight_of_lt count]
    by_cases inside : i + n < w
    · rw [Nat.mod_eq_of_lt inside, Nat.add_comm]
      simp [show i < w - n by omega]
    · rw [Nat.mod_eq_sub_mod (by omega), Nat.mod_eq_of_lt (by omega)]
      simp [bit, show ¬i < w - n by omega, show i - (w - n) = i + n - w by omega]
  cases sm with
  | rotate | rotateAlt => exact rotated
  | arithmetic =>
    rw [shiftRight, rightBit, BitVec.getLsbD_sshiftRight, BitVec.msb_eq_getLsbD_last, Nat.add_comm]
    simp only [bit, Nat.not_le.mpr, decide_false, Bool.not_false, Bool.true_and]
  | logical =>
    rw [shiftRight, rightBit, BitVec.getLsbD_ushiftRight, Nat.add_comm]
    split
    · rfl
    · exact BitVec.getLsbD_of_ge _ _ (by omega)

theorem getLsbD_shiftLeft : (shiftLeft sm v n).getLsbD i = leftBit sm v n i := by
  have rotated : (v.rotateLeft n).getLsbD i = v.getLsbD ((i + (w - n)) % w) := by
    rw [BitVec.getLsbD_rotateLeft, Nat.mod_eq_of_lt count]
    by_cases inside : i < n
    · rw [Nat.mod_eq_of_lt (by omega)]
      simp [inside, Nat.add_comm]
    · rw [Nat.mod_eq_sub_mod (by omega), Nat.mod_eq_of_lt (by omega)]
      simp [bit, inside, show i + (w - n) - w = i - n by omega]
  have shifted : (v <<< n).getLsbD i = if n ≤ i then v.getLsbD (i - n) else false := by
    rw [BitVec.getLsbD_shiftLeft]
    by_cases inside : n ≤ i <;> simp [bit, inside, Nat.not_lt.mpr, Nat.lt_of_not_le]
  cases sm with
  | rotate | rotateAlt => exact rotated
  | arithmetic | logical => exact shifted

end Shift

/-- Right first, then left (R205). -/
theorem shiftedTo_shifted {w n : Nat} (l r : Bool) (sm : ShiftMode) (v : BitVec w) (count : n < w) :
    ShiftedTo l r sm n v (shifted l r sm v n) := by
  refine ⟨if r then shiftRight sm v n else v, fun i bit => ?_, fun i bit => ?_⟩
  · cases r with
    | false => rfl
    | true => exact getLsbD_shiftRight sm v count bit
  · cases l with
    | false => rfl
    | true => exact getLsbD_shiftLeft sm _ count bit

/-! ## One bit -/

theorem getLsbD_bitMask (bn : BitVec 5) (k : Nat) : (bitMask bn).getLsbD k = decide (k = bn.toNat) := by
  rw [bitMask, ← BitVec.twoPow_eq, BitVec.getLsbD_twoPow, decide_eq_true bn.isLt, Bool.true_and]
  exact decide_eq_decide.mpr eq_comm

/-- The word `u` is `v` with `f` done to bit BN. -/
def BitChanged (f : Bool → Bool) (bn : BitVec 5) (v u : Word) : Prop :=
  ∀ k < 32, u.getLsbD k = if k = bn.toNat then f (v.getLsbD k) else v.getLsbD k

section Bit

variable (bn : BitVec 5) (v : Word)

theorem bitChanged_or : BitChanged (fun _ => true) bn v (v ||| bitMask bn) := by
  intro k _
  rw [BitVec.getLsbD_or, getLsbD_bitMask]
  split <;> simp [*]

theorem bitChanged_xor : BitChanged (fun b => !b) bn v (v ^^^ bitMask bn) := by
  intro k _
  rw [BitVec.getLsbD_xor, getLsbD_bitMask]
  split <;> simp [*]

theorem bitChanged_andNot : BitChanged (fun _ => false) bn v (v &&& ~~~bitMask bn) := by
  intro k inside
  rw [BitVec.getLsbD_and, BitVec.getLsbD_not, getLsbD_bitMask, decide_eq_true inside]
  split <;> simp [*]

end Bit

/-- BN of 32 or more (30_encoding.md R101). -/
theorem decodeBit_bitNumber (rfc rsc : BitVec 4) (dr sra : Reg) (bn : BitVec 5)
    (mk : Reg → Reg → BitVec 5 → Instr) :
    decodeBit (encodeIR rfc rsc dr sra (1#1 ++ bn)) rsc mk = .error .bitNumber := by
  obtain ⟨high, _⟩ := append_bit_slices 1#1 bn
  simp [decodeBit, high]

theorem decodeWord_bitNumber {rfc rsc : BitVec 4} (dr sra : Reg) (bn : BitVec 5)
    (row : (rfc, rsc) ∈ [(4#4, 0b1100#4), (4#4, 0b1101#4), (5#4, 0b1100#4)]) :
    decodeWord (encodeIR rfc rsc dr sra (1#1 ++ bn)) = .error .bitNumber := by
  have parent : decodeParent (encodeIR rfc rsc dr sra (1#1 ++ bn)) = .error .bitNumber := by
    simp only [List.mem_cons, List.not_mem_nil, or_false] at row
    rcases row with same | same | same <;> cases same
    all_goals
      simp only [decodeParent, decodeInterRegister, decodeSetComplement, fieldFC_encodeIR,
        bit31_encodeIR, fieldRFC_encodeIR, bit23_encodeIR]
      exact decodeBit_bitNumber ..
  rw [decodeWord, parent]

/-! ## The obligations -/

/-- Settles O33: the word of STOP is its code, and the monitor call changes the run state only. -/
theorem stopResult : Obligations.StopResult := by
  intro s code
  refine ⟨?_, fun w fc high rsc => decodeWord_stopSubcode fc high rsc, _, rfl, rfl, rfl, rfl,
    Unchanged.refl.update (run := fun other => absurd (by simp) other)⟩
  rw [setWidth_eq_encodeIR18]
  exact decodeWord_encode (.stop code)

/-- Settles O35: a read writes the register, a write writes OR or RR. -/
theorem registerIOResult : Obligations.RegisterIOResult := by
  intro s dr sra e number held
  have number_eq : number = e.bits := by cases e <;> rfl
  have held_eq : held = s.ext e := by cases e <;> rfl
  rw [number_eq, held_eq]
  refine ⟨decodeWord_encode (.rin dr 0 e), decodeWord_encode (.rout 0 sra e), fun i listed => ?read,
    fun i listed => ?write⟩
  case read =>
    have runs : exec i s = .next (s.setReg dr (s.ext e)).next := by
      obtain rfl | rfl := List.mem_pair.mp listed <;> rfl
    exact ⟨_, runs, setReg_next_writes s dr _⟩
  case write =>
    have runs : exec i s = .next (s.setExt e (s.reg sra)).next := by
      obtain rfl | rfl := List.mem_pair.mp listed <;> rfl
    exact ⟨_, runs, setExt_next_writes s e _⟩

/-- Settles O36: each row is the shift at its setting. -/
theorem shiftResult : Obligations.ShiftResult := by
  intro s l r sm dr sra sc i l' r' sm' listed
  have runs : exec i s = shiftSingle l' r' sm' dr sra sc s := by
    simp only [List.mem_cons, List.not_mem_nil, or_false] at listed
    rcases listed with same | same | same | same | same | same | same <;> cases same <;> rfl
  exact ⟨_, _, runs, shiftedTo_shifted l' r' sm' _ sc.isLt, setReg_next_writes s dr _⟩

/-- Settles O37: the same shift on 64 bits, to both cells of the pair. -/
theorem doubleShiftResult : Obligations.DoubleShiftResult := by
  intro s l r sm dfd srad sc i l' r' sm' listed
  have runs : exec i s = shiftDouble l' r' sm' dfd srad sc s := by
    simp only [List.mem_cons, List.not_mem_nil, or_false] at listed
    rcases listed with same | same | same | same | same | same | same <;> cases same <;> rfl
  exact ⟨_, _, runs, shiftedTo_shifted l' r' sm' _ sc.isLt, setTaintedFD_next_writes s dfd.reg _⟩

/-- Settles O38: OR, exclusive OR and AND with the mask of bit BN. -/
theorem bitResult : Obligations.BitResult := by
  intro s dr sra bn i rfc rsc f listed
  simp only [List.mem_cons, List.not_mem_nil, or_false] at listed
  have result {u : Word} (changed : BitChanged f bn (s.reg sra) u)
      (runs : exec i s = .next (s.setReg dr u).next) :
      ∃ t u, exec i s = .next t ∧ Wrote t dr u false ∧ BitChanged f bn (s.reg sra) u ∧
        Continues s t ∧ Unchanged s t [dr] [] := by
    obtain ⟨wrote, continues, frame⟩ := setReg_next_writes s dr u
    exact ⟨_, u, runs, wrote, changed, continues, frame⟩
  obtain same | same | same := listed <;> cases same
  · exact ⟨decodeWord_encode (.bst dr sra bn), decodeWord_bitNumber dr sra bn (by decide),
      result (bitChanged_or bn _) rfl⟩
  · exact ⟨decodeWord_encode (.bcm dr sra bn), decodeWord_bitNumber dr sra bn (by decide),
      result (bitChanged_xor bn _) rfl⟩
  · exact ⟨decodeWord_encode (.bcl dr sra bn), decodeWord_bitNumber dr sra bn (by decide),
      result (bitChanged_andNot bn _) rfl⟩

/-- Settles O39: the skip is on bit BN of the tested value. -/
theorem bitSkipResult : Obligations.BitSkipResult := by
  intro s dr sra bn tested i b listed
  have runs : exec i s = bitSkip b dr sra bn s := by
    obtain same | same := List.mem_pair.mp listed <;> cases same <;> rfl
  have test : ((s.setReg dr (s.reg sra)).tested dr (s.reg sra)).getLsbD bn.toNat == b ↔
      tested.getLsbD bn.toNat = b := by
    rw [tested_setReg, beq_iff_eq]
  exact ⟨_, runs, (wrote_setReg s dr _).congr (by simp) (by simp), skipsIf_of_test test,
    (Unchanged.refl.setReg _).skipIf _⟩

/-- Settles O42: each row is the logical operation at its setting. -/
theorem logicResult : Obligations.LogicResult := by
  intro s ca cb dr sra srb a b a' b' i rsc v listed
  obtain ⟨word, runs⟩ :
      encode i = encodeIR 10 rsc dr sra srb ∧ exec i s = .next (s.setReg dr v).next := by
    simp only [List.mem_cons, List.not_mem_nil, or_false] at listed
    rcases listed with same | same | same | same | same | same | same | same | same | same | same |
      same | same | same <;> cases same <;> exact ⟨rfl, rfl⟩
  exact ⟨word ▸ decodeWord_encode i, _, runs, setReg_next_writes s dr v⟩

end Sys2Proof.Machine
end

section
/-! PROOFS. What the inter-register instructions on integers leave (41_inter_register.md R253 to R258, R268
to R276): sums and differences with the carry bit, products and quotients, and the skips on a sum or
difference. -/

namespace Sys2Proof

/-- CB is a part of its own. -/
theorem Unchanged.setCB {s t : Machine.State} {rs : List Reg} {ps : List Part} (h : Unchanged s t rs ps)
    (c : Bool) (named : Part.cb ∈ ps := by simp) : Unchanged s { t with cb := c } rs ps :=
  h.update (cb := fun other => absurd named other)

end Sys2Proof

namespace Sys2Proof.Machine

/-! ## The 33-bit result -/

/-- The result of IRO add and subtract as a number, the operands unsigned (R253; log 27). -/
def carryUnsigned (subtract : Bool) (a b : Word) (c : Bool) : Int :=
  let cv : Int := if c then 1 else 0
  if subtract then (a.toNat : Int) - b.toNat + cv else (a.toNat : Int) + b.toNat + cv

theorem carryResult_eq (subtract : Bool) (a b : Word) (c : Bool) :
    carryResult subtract a b c = BitVec.ofInt 33 (carryUnsigned subtract a b c) := by
  have word (x : Word) : x.setWidth 33 = BitVec.ofInt 33 x.toNat := by
    rw [BitVec.ofInt_natCast, BitVec.ofNat_toNat]
  have carry : (BitVec.ofBool c).setWidth 33 = BitVec.ofInt 33 (if c then 1 else 0) := by
    cases c <;> rfl
  rw [carryResult, carryUnsigned, word a, word b, carry]
  cases subtract with
  | false => simp only [Bool.false_eq_true, if_false, BitVec.ofInt_add]
  | true =>
    simp only [if_true, BitVec.ofInt_add, BitVec.ofInt_neg, BitVec.sub_eq_add_neg, Int.sub_eq_add_neg]

theorem ofInt_low (v : Int) : (BitVec.ofInt 33 v).extractLsb' 0 32 = BitVec.ofInt 32 v := by
  refine BitVec.eq_of_toNat_eq ?_
  rw [BitVec.extractLsb'_toNat, BitVec.toNat_ofInt, BitVec.toNat_ofInt]
  omega

/-- The carry out of a sum. -/
theorem ofInt_carry_iff {v : Int} (nonneg : 0 ≤ v) (bound : v < 2 ^ 33) :
    (BitVec.ofInt 33 v).getLsbD 32 = true ↔ 2 ^ 32 ≤ v := by
  have top : (BitVec.ofInt 33 v).getLsbD 32 = (BitVec.ofInt 33 v).msb :=
    (BitVec.msb_eq_getLsbD_last _).symm
  rw [top, BitVec.msb_eq_decide, decide_eq_true_eq, BitVec.toNat_ofInt]
  omega

theorem carryUnsigned_add_range (a b : Word) (c : Bool) :
    0 ≤ carryUnsigned false a b c ∧ carryUnsigned false a b c < 2 ^ 33 := by
  have ha := a.isLt
  have hb := b.isLt
  cases c <;> simp only [carryUnsigned, Bool.false_eq_true, if_true, if_false] <;> omega

/-- IRO add and subtract (R253, R254). -/
theorem addSubCarry_result (s : State) (sc ac sb : Bool) (dr sra srb : Reg) :
    let c := ac && s.cb
    let u := carryUnsigned sb (s.reg sra) (s.reg srb) c
    ∃ t, addSubCarry sc ac sb dr sra srb s = .next t ∧ Wrote t dr (BitVec.ofInt 32 u) false ∧
      t.cb = (if sc then (BitVec.ofInt 33 u).getLsbD 32 else s.cb) ∧ Continues s t ∧
      Unchanged s t [dr] [.cb, .run] ∧
      MonitorOn s t (OutOfRange (carryTrue sb (s.reg sra) (s.reg srb) c)) := by
  intro c u
  have frame {ps : List Part} (x : Bool) (v : Word) (named : Part.cb ∈ ps) :
      Unchanged s (({ s with cb := x } : State).setReg dr v).next [dr] ps :=
    ((Unchanged.refl.setCB x named).setReg v).next
  have runs : addSubCarry sc ac sb dr sra srb s = .next
      ((({ s with cb := if sc then (BitVec.ofInt 33 u).getLsbD 32 else s.cb } : State).setReg dr
        (BitVec.ofInt 32 u)).next.overflowCall s.pc
        (intOverflow (carryTrue sb (s.reg sra) (s.reg srb) c))) := by
    rw [← ofInt_low, ← carryResult_eq]
    rfl
  refine ⟨_, runs, (wrote_setReg _ dr _).congr (overflowCall_regs ..) (overflowCall_taint ..), ?_,
    ⟨?_, ?_⟩, (frame _ _ (by simp)).overflowCall _ _,
    (frame (ps := [.cb]) _ _ (by simp)).monitorOn (intOverflow_iff _)⟩
  all_goals simp

/-! ## Skips on a sum or difference -/

/-- The tests of R135 on a word are the relations of its signed value to zero. -/
theorem holdsZero_iff_related (rl : Relation) (v : Word) :
    holdsZero rl v = true ↔ Related rl v.toInt 0 := by
  have zero : v = 0 ↔ v.toInt = 0 := BitVec.toInt_inj.symm
  cases rl with
  | ge => exact holdsZero_ge_iff_nonneg v
  | lt => exact holdsZero_lt_iff_neg v
  | eq => exact (holdsZero_eq_iff v).trans zero
  | ne => exact (holdsZero_ne_iff v).trans (not_congr zero)

theorem intWord_sumTrue (subtract : Bool) (a b : Word) :
    intWord (sumTrue subtract a b) = if subtract then a - b else a + b := by
  cases subtract with
  | false => exact intWord_add a b
  | true => exact intWord_sub a b

/-- IRS (R268): the relation is on the word delivered. -/
theorem integerSkip_result (s : State) (rl : Relation) (sb : Bool) (dr sra srb : Reg) :
    let v := intWord (sumTrue sb (s.reg sra) (s.reg srb))
    ∃ t, integerSkip rl sb dr sra srb s = .next t ∧ Wrote t dr v false ∧
      SkipsIf s t (Related rl v.toInt 0) ∧ Unchanged s t [dr] [.run] ∧
      MonitorOn s t (OutOfRange (sumTrue sb (s.reg sra) (s.reg srb))) := by
  intro v
  have frame {ps : List Part} (x : Bool) : Unchanged s ((s.setReg dr v).skipIf x) [dr] ps :=
    (Unchanged.refl.setReg v).skipIf x
  have runs : integerSkip rl sb dr sra srb s =
      .next (((s.setReg dr v).skipIf (holdsZero rl v)).overflowCall s.pc
        (intOverflow (sumTrue sb (s.reg sra) (s.reg srb)))) := rfl
  exact ⟨_, runs, (wrote_setReg s dr v).congr (by simp) (by simp),
    skipsIf_of_test (holdsZero_iff_related rl v), (frame _).overflowCall _ _,
    (frame (ps := []) _).monitorOn (intOverflow_iff _)⟩

/-! ## The obligations -/

/-- Settles O43: each row is the 33-bit sum or difference at its setting. -/
theorem addSubResult : Obligations.AddSubResult := by
  intro s sc ac sb dr sra srb i sc' ac' sb' listed a b c u signed
  have runs : exec i s = addSubCarry sc' ac' sb' dr sra srb s := by
    simp only [List.mem_cons, List.not_mem_nil, or_false] at listed
    rcases listed with same | same | same <;> cases same <;> rfl
  obtain ⟨t, next, wrote, carry, continues, frame, monitor⟩ :=
    addSubCarry_result s sc' ac' sb' dr sra srb
  refine ⟨t, runs.trans next, wrote, carry, fun writes adds => ?_, continues, frame, monitor⟩
  subst writes adds
  obtain ⟨nonneg, bound⟩ := carryUnsigned_add_range a b (ac' && s.cb)
  rw [carry, if_pos rfl]
  exact ofInt_carry_iff nonneg bound

/-- Settles O44: the product and the quotient of MPY and DIV, with a register in the place of the memory
word. -/
theorem mulDivResult : Obligations.MulDivResult := by
  intro s dr sra srb n d product corner
  refine ⟨fun i listed => ?multiply, fun i listed => ?divide⟩
  case multiply =>
    have runs : exec i s = .next (s.setProduct dr product) := by
      obtain rfl | rfl := List.mem_pair.mp listed <;> rfl
    obtain ⟨wrote, high, continues, frame, monitor⟩ := setProduct_result s dr product
    exact ⟨_, _, runs, wrote, high ▸ product_append product, continues, frame, monitor⟩
  case divide =>
    have runs : exec i s = .next (s.setQuotient dr n d) := by
      obtain rfl | rfl := List.mem_pair.mp listed <;> rfl
    obtain ⟨wrote, rest, continues, frame, monitor⟩ :=
      setQuotient_result s dr (divisionOverflow_iff n d)
    exact ⟨_, _, runs, wrote, continues, frame, monitor,
      fun nonzero noCorner => rest ▸ division_spec nonzero noCorner⟩

/-- Settles O46: each row is the sum or difference and the relation of its setting. -/
theorem integerSkipResult : Obligations.IntegerSkipResult := by
  intro s rl sb dr sra srb i rl' sb' listed a b v signed
  have runs : exec i s = integerSkip rl' sb' dr sra srb s := by
    simp only [List.mem_cons, List.not_mem_nil, or_false] at listed
    rcases listed with same | same | same | same | same | same | same | same | same <;> cases same <;>
      rfl
  rw [runs, show v = _ from (intWord_sumTrue sb' a b).symm]
  exact integerSkip_result s rl' sb' dr sra srb

end Sys2Proof.Machine
end

section
/-! PROOFS. The floating format (43_floating_numerics.md R320 to R325, R339) and the conversions between
integer and floating (R340 to R344; 41_inter_register.md R224 to R229). -/

namespace Sys2Proof.Machine

/-! ## The fields of a floating word -/

/-- A sign, nine exponent bits and p - 1 fraction bits fill the word (R320, R321). -/
theorem wordBits_eq (p : Precision) : wordBits p = mantissaBits p - 1 + 9 + 1 := by
  cases p <;> rfl

theorem mantissaBits_pos (p : Precision) : 0 < mantissaBits p := by
  cases p <;> decide

/-- Only the W bits of the word count. -/
theorem exponentField_mod (p : Precision) (w : Nat) :
    exponentField p (w % 2 ^ wordBits p) = exponentField p w := by
  rw [exponentField, exponentField, wordBits_eq, Nat.add_assoc, Nat.pow_add, Nat.mod_mul_right_div_self,
    Nat.mod_mod_of_dvd _ (Nat.pow_dvd_pow 2 (by decide))]

theorem unpack_mod (p : Precision) (w : Nat) : unpack p (w % 2 ^ wordBits p) = unpack p w := by
  have fraction : mantissaBits p - 1 ≤ wordBits p := by rw [wordBits_eq]; omega
  have sign : wordBits p - 1 < wordBits p := by rw [wordBits_eq]; omega
  rw [unpack, unpack, exponentField_mod, signBit, signBit, Nat.testBit_mod_two_pow,
    decide_eq_true sign, Bool.true_and, Nat.mod_mod_of_dvd _ (Nat.pow_dvd_pow 2 fraction)]

theorem scaledValue_mod (p : Precision) (w : Nat) :
    scaledValue p (w % 2 ^ wordBits p) = scaledValue p w := by
  rw [scaledValue, scaledValue, unpack_mod]

/-- Any word with exponent field 0 is the number zero (R322). -/
theorem unpack_eq_none {p : Precision} {w : Nat} (zero : exponentField p w = 0) :
    unpack p w = none :=
  if_pos zero

theorem scaledValue_eq_zero {p : Precision} {w : Nat} (zero : exponentField p w = 0) :
    scaledValue p w = 0 := by
  rw [scaledValue, unpack_eq_none zero]

/-- The magnitude of an unpacked number in the scale of `scaledValue`. -/
def Unpacked.magnitude (u : Unpacked) : Nat :=
  u.m * 2 ^ u.e

/-- The sign of a number, as a factor. -/
def signFactor (s : Bool) : Int :=
  if s then -1 else 1

theorem scaledValue_of_unpack {p : Precision} {w : Nat} {u : Unpacked} (h : unpack p w = some u) :
    scaledValue p w = signFactor u.s * u.magnitude := by
  rw [scaledValue, h]
  rfl

/-- A word is zero by its exponent field, or it has its sign bit and a positive mantissa. -/
theorem unpack_cases (p : Precision) (w : Nat) :
    exponentField p w = 0 ∨
      exponentField p w ≠ 0 ∧ ∃ u, unpack p w = some u ∧ u.s = signBit p w ∧ 0 < u.magnitude := by
  by_cases zero : exponentField p w = 0
  · exact .inl zero
  · exact .inr ⟨zero, _, if_neg zero, rfl, by simp only [Unpacked.magnitude]; positivity⟩

/-- The relations of R339 are those of the number to zero. -/
theorem floatHolds_iff_related (rl : Relation) (p : Precision) (w : Nat) :
    floatHolds rl p w = true ↔ Related rl (scaledValue p w) 0 := by
  obtain zero | ⟨nonzero, u, unpacked, sign, positive⟩ := unpack_cases p w
  · rw [scaledValue_eq_zero zero]
    cases rl <;> simp [floatHolds, Related, zero]
  · have value : scaledValue p w = signFactor (signBit p w) * u.magnitude :=
      sign ▸ scaledValue_of_unpack unpacked
    have negative : scaledValue p w < 0 ↔ signBit p w = true := by
      rw [value]
      cases signBit p w <;> simp [signFactor, positive]
    have number : scaledValue p w ≠ 0 := by
      rw [value]
      cases signBit p w <;> simp [signFactor, positive.ne']
    cases rl with
    | ge => simp [floatHolds, Related, nonzero, ← not_lt, negative]
    | lt => simp [floatHolds, Related, nonzero, negative]
    | eq | ne => simp [floatHolds, Related, nonzero, number]

/-- The layout of a word: the fraction, then the exponent and the sign (R320, R321). -/
theorem pack_eq (p : Precision) (s : Bool) (e m : Nat) :
    pack p s e m =
      m - 2 ^ (mantissaBits p - 1) + 2 ^ (mantissaBits p - 1) * (e + 2 ^ 9 * s.toNat) := by
  have sign : signValue p s = 2 ^ (mantissaBits p - 1) * (2 ^ 9 * s.toNat) := by
    rw [signValue, wordBits_eq, Nat.add_sub_cancel, Nat.pow_add]
    cases s <;> simp
  rw [pack, sign, Nat.mul_add, Nat.mul_comm e]
  omega

/-- unpack_p undoes pack_p on a normalised number (R325, R327). -/
theorem unpack_pack {p : Precision} {e m : Nat} (s : Bool) (low : 1 ≤ e) (high : e < 2 ^ 9)
    (normal : 2 ^ (mantissaBits p - 1) ≤ m) (bound : m < 2 ^ mantissaBits p) :
    unpack p (pack p s e m) = some ⟨s, e, m⟩ := by
  have double : 2 ^ mantissaBits p = 2 ^ (mantissaBits p - 1) * 2 :=
    (Nat.pow_pred_mul (mantissaBits_pos p)).symm
  have fraction : m - 2 ^ (mantissaBits p - 1) < 2 ^ (mantissaBits p - 1) := by omega
  have upper : pack p s e m / 2 ^ (mantissaBits p - 1) = e + 2 ^ 9 * s.toNat := by
    rw [pack_eq, Nat.add_mul_div_left _ _ (by positivity), Nat.div_eq_of_lt fraction, Nat.zero_add]
  have exponent : exponentField p (pack p s e m) = e := by
    rw [exponentField, upper, Nat.add_mul_mod_self_left, Nat.mod_eq_of_lt high]
  have sign : signBit p (pack p s e m) = s := by
    rw [signBit, wordBits_eq, Nat.add_sub_cancel, Nat.testBit_eq_decide_div_mod_eq, Nat.pow_add,
      ← Nat.div_div_eq_div_mul, upper, Nat.add_mul_div_left _ _ (by decide), Nat.div_eq_of_lt high]
    cases s <;> rfl
  have mantissa : pack p s e m % 2 ^ (mantissaBits p - 1) = m - 2 ^ (mantissaBits p - 1) := by
    rw [pack_eq, Nat.add_mul_mod_self_left, Nat.mod_eq_of_lt fraction]
  rw [unpack, exponent, sign, mantissa, Nat.add_sub_cancel' normal, if_neg (by omega)]

/-! ## Floating to integer -/

/-- The integer that a convert delivers in range, from the number in the scale of `scaledValue` (R340,
R341). -/
def convertedInt (p : Precision) (round : Bool) (v : Int) : Int :=
  if round then v.sign * ((2 * v.natAbs + floatScale p) / (2 * floatScale p) : Nat)
  else v.tdiv (floatScale p)

/-- The bit below those kept rounds up: "the last shifted out bit" (R341). -/
theorem div_add_testBit (m j : Nat) :
    m / 2 ^ (j + 1) + (if m.testBit j then 1 else 0) = (2 * m + 2 ^ (j + 1)) / (2 * 2 ^ (j + 1)) := by
  have pos : 0 < 2 ^ j := by positivity
  have half : m / 2 ^ (j + 1) = m / 2 ^ j / 2 := by rw [Nat.pow_succ, Nat.div_div_eq_div_mul]
  have rounded : (2 * m + 2 ^ (j + 1)) / (2 * 2 ^ (j + 1)) = (m / 2 ^ j + 1) / 2 := by
    rw [show 2 * m + 2 ^ (j + 1) = 2 * (m + 2 ^ j) by rw [Nat.pow_succ]; omega,
      Nat.mul_div_mul_left _ _ (by decide), Nat.pow_succ, ← Nat.div_div_eq_div_mul,
      Nat.add_div_right _ pos]
  rw [half, rounded, Nat.testBit_eq_decide_div_mod_eq]
  simp only [decide_eq_true_eq]
  split <;> omega

theorem round_scale {c : Nat} (pos : 0 < c) (x d : Nat) :
    (2 * (c * x) + c * d) / (2 * (c * d)) = (2 * x + d) / (2 * d) := by
  rw [show 2 * (c * x) + c * d = c * (2 * x + d) by ring, show 2 * (c * d) = c * (2 * d) by ring,
    Nat.mul_div_mul_left _ _ pos]

/-- The magnitude is the number divided by its scale, truncated or rounded. -/
theorem convertMagnitude_eq (p : Precision) (u : Unpacked) (round : Bool) :
    convertMagnitude p u round =
      if round then (2 * u.magnitude + floatScale p) / (2 * floatScale p)
      else u.magnitude / floatScale p := by
  have scalePos : 0 < floatScale p := by rw [floatScale]; positivity
  rw [convertMagnitude, Unpacked.magnitude]
  by_cases whole : 256 + mantissaBits p ≤ u.e
  · have multiple : u.m * 2 ^ u.e = floatScale p * (u.m * 2 ^ (u.e - (256 + mantissaBits p))) := by
      rw [floatScale, Nat.mul_left_comm, ← Nat.pow_add, Nat.add_sub_cancel' whole]
    have rounded (x : Nat) : (2 * (floatScale p * x) + floatScale p) / (2 * floatScale p) = x := by
      have scaled := round_scale scalePos x 1
      rw [Nat.mul_one] at scaled
      omega
    rw [if_pos whole, multiple, Nat.mul_div_cancel_left _ scalePos, rounded, ite_self]
  · obtain ⟨j, shift⟩ : ∃ j, 256 + mantissaBits p = u.e + (j + 1) :=
      ⟨256 + mantissaBits p - u.e - 1, by omega⟩
    have unit : floatScale p = 2 ^ u.e * 2 ^ (j + 1) := by rw [floatScale, shift, Nat.pow_add]
    have unitPos : 0 < 2 ^ u.e := by positivity
    have truncated : u.m * 2 ^ u.e / floatScale p = u.m / 2 ^ (j + 1) := by
      rw [unit, Nat.mul_comm, Nat.mul_div_mul_left _ _ unitPos]
    have rounded : (2 * (u.m * 2 ^ u.e) + floatScale p) / (2 * floatScale p) =
        (2 * u.m + 2 ^ (j + 1)) / (2 * 2 ^ (j + 1)) := by
      rw [unit, Nat.mul_comm u.m, round_scale unitPos]
    rw [if_neg whole, truncated, rounded, ← div_add_testBit, shift, Nat.add_sub_cancel_left]
    cases round <;> simp

theorem convertedInt_of_unpack {p : Precision} {w : Nat} {u : Unpacked} (round : Bool)
    (h : unpack p w = some u) (positive : 0 < u.magnitude) :
    convertedInt p round (scaledValue p w) = signFactor u.s * convertMagnitude p u round := by
  have sign : (signFactor u.s * (u.magnitude : Int)).sign = signFactor u.s := by
    rw [Int.sign_mul, Int.sign_natCast_of_ne_zero positive.ne', mul_one]
    cases u.s <;> rfl
  have size : (signFactor u.s * (u.magnitude : Int)).natAbs = u.magnitude := by
    cases u.s <;> simp [signFactor]
  have truncated : (signFactor u.s * (u.magnitude : Int)).tdiv (floatScale p) =
      signFactor u.s * (u.magnitude / floatScale p : Nat) := by
    cases u.s <;> simp [signFactor, Int.neg_tdiv]
  rw [scaledValue_of_unpack h, convertMagnitude_eq, convertedInt, sign, size, truncated]
  split <;> rfl

/-- The word of a convert to integer: the greatest integer of the sign when the integer is out of range
(R342). -/
def convertedWord (n : Int) : Word :=
  if 2 ^ 31 ≤ n then 0x7FFFFFFF else if n < -2 ^ 31 then 0x80000000 else BitVec.ofInt 32 n

/-- conv_p of a number that is not zero (R340, R342): its sign decides between the two ranges. -/
theorem convert_of_unpack {p : Precision} {w : Nat} {u : Unpacked} (round : Bool)
    (h : unpack p w = some u) :
    convert p round w =
      if u.s then
        if 2 ^ 31 < convertMagnitude p u round then ⟨2 ^ 31, .overflow⟩
        else ⟨(2 ^ 32 - convertMagnitude p u round) % 2 ^ 32, .none⟩
      else
        if 2 ^ 31 - 1 < convertMagnitude p u round then ⟨2 ^ 31 - 1, .overflow⟩
        else ⟨convertMagnitude p u round, .none⟩ := by
  rw [convert, h]

theorem convert_of_zero {p : Precision} {w : Nat} (round : Bool) (zero : exponentField p w = 0) :
    convert p round w = floatZero := by
  rw [convert, unpack_eq_none zero]

/-- A result of conv_p is the delivered word and an event that says whether the integer is in range. -/
structure ConvertsTo (res : FloatResult) (n : Int) : Prop where
  word : BitVec.ofNat 32 res.bits = convertedWord n
  event : res.event = .overflow ∧ OutOfRange n ∨ res.event = .none ∧ ¬OutOfRange n

theorem convertsTo_inside {bits : Nat} {n : Int} (inside : ¬OutOfRange n)
    (word : BitVec.ofNat 32 bits = BitVec.ofInt 32 n) : ConvertsTo ⟨bits, .none⟩ n := by
  refine ⟨?_, .inr ⟨rfl, inside⟩⟩
  rw [OutOfRange] at inside
  rw [word, convertedWord, if_neg (by omega), if_neg (by omega)]

theorem convertsTo_above {n : Int} (above : 2 ^ 31 ≤ n) : ConvertsTo ⟨2 ^ 31 - 1, .overflow⟩ n :=
  ⟨by rw [convertedWord, if_pos above]; rfl, .inl ⟨rfl, .inr above⟩⟩

theorem convertsTo_below {n : Int} (below : n < -2 ^ 31) : ConvertsTo ⟨2 ^ 31, .overflow⟩ n :=
  ⟨by rw [convertedWord, if_neg (by omega), if_pos below]; rfl, .inl ⟨rfl, .inl below⟩⟩

/-- The complement of a magnitude is the word of the negative integer. -/
theorem ofNat_complement {mag : Nat} (bound : mag ≤ 2 ^ 31) :
    BitVec.ofNat 32 ((2 ^ 32 - mag) % 2 ^ 32) = BitVec.ofInt 32 (-mag) := by
  refine BitVec.eq_of_toNat_eq ?_
  rw [BitVec.toNat_ofNat, BitVec.toNat_ofInt]
  omega

/-- conv_p (R340 to R342). -/
theorem convert_convertsTo (p : Precision) (round : Bool) (w : Nat) :
    ConvertsTo (convert p round w) (convertedInt p round (scaledValue p w)) := by
  obtain zero | ⟨_, u, unpacked, _, positive⟩ := unpack_cases p w
  · have integer : convertedInt p round 0 = 0 := by
      rw [convertedInt]
      cases round <;> simp
    rw [convert_of_zero round zero, scaledValue_eq_zero zero, integer]
    exact convertsTo_inside (not_outOfRange_toInt 0) rfl
  · rw [convert_of_unpack round unpacked, convertedInt_of_unpack round unpacked positive]
    generalize convertMagnitude p u round = mag
    cases u.s with
    | true =>
      rw [if_pos rfl, show signFactor true * (mag : Int) = -mag by simp [signFactor]]
      split
      · exact convertsTo_below (by omega)
      · exact convertsTo_inside (by rw [OutOfRange]; omega) (ofNat_complement (by omega))
    | false =>
      rw [if_neg Bool.false_ne_true, show signFactor false * (mag : Int) = mag by simp [signFactor]]
      split
      · exact convertsTo_above (by omega)
      · exact convertsTo_inside (by rw [OutOfRange]; omega) (BitVec.ofInt_natCast 32 mag).symm

/-- FIX, FIR, FIXD, FIRD (41_inter_register.md R224 to R227). -/
theorem toInteger_result (s : State) (p : Precision) (round : Bool) (dr : Reg) (f : FReg) :
    let n := convertedInt p round (scaledValue p (s.freg p f))
    ∃ t, toInteger p round dr f s = .next t ∧ Wrote t dr (convertedWord n) false ∧
      (OutOfRange n → t.ovf = true) ∧ (¬OutOfRange n → t.ovf = s.ovf) ∧ t.unf = s.unf ∧
      Continues s t ∧ Unchanged s t [dr] [.flags] := by
  intro n
  obtain ⟨word, event⟩ := convert_convertsTo p round (s.freg p f)
  have runs : toInteger p round dr f s = .next
      ((s.setReg dr (convertedWord n)).note (convert p round (s.freg p f)).event).next := by
    rw [← word]
    rfl
  refine ⟨_, runs, (wrote_setReg s dr _).congr (by simp) (by simp), ?_, ?_, ?_,
    ⟨by simp, by simp⟩, ((Unchanged.refl.setReg _).note _).next⟩
  all_goals
    obtain ⟨signals, range⟩ | ⟨signals, range⟩ := event <;> simp [signals, n, range]

/-! ## Integer to floating -/

/-- The weight of the least bit that flo_p keeps of a magnitude (R344). -/
def keptUnit (p : Precision) (mag : Nat) : Nat :=
  2 ^ (mag.log2 + 1 - mantissaBits p)

/-- The magnitude of an integer has at most 32 bits. -/
theorem log2_natAbs_toInt (x : Word) : x.toInt.natAbs.log2 < 32 := by
  by_cases zero : x.toInt.natAbs = 0
  · rw [zero]
    decide
  · have low := x.le_toInt
    have high := x.toInt_lt
    exact (Nat.log2_lt zero).mpr (by omega)

theorem keptUnit_double (x : Word) : keptUnit .double x.toInt.natAbs = 1 := by
  have short := log2_natAbs_toInt x
  rw [keptUnit, mantissaBits, Nat.sub_eq_zero_of_le (by omega), Nat.pow_zero]

/-- flo_p of an integer of n bits (R343): the mantissa that stands for it. -/
def floMantissa (p : Precision) (mag : Nat) : Nat :=
  if mantissaBits p < mag.log2 + 1 then mag / 2 ^ (mag.log2 + 1 - mantissaBits p)
  else mag * 2 ^ (mantissaBits p - (mag.log2 + 1))

section Magnitude

variable (p : Precision) {mag : Nat} (nonzero : mag ≠ 0)

include nonzero in
/-- The mantissa has its leading bit in the leading place. -/
theorem floMantissa_normal :
    2 ^ (mantissaBits p - 1) ≤ floMantissa p mag ∧ floMantissa p mag < 2 ^ mantissaBits p := by
  have low : 2 ^ mag.log2 ≤ mag := Nat.log2_self_le nonzero
  have high : mag < 2 ^ (mag.log2 + 1) := Nat.lt_log2_self
  have pos := mantissaBits_pos p
  rw [floMantissa]
  split
  · rw [Nat.le_div_iff_mul_le (by positivity), Nat.div_lt_iff_lt_mul (by positivity), ← Nat.pow_add,
      ← Nat.pow_add]
    exact ⟨(Nat.pow_le_pow_right (by decide) (by omega)).trans low,
      high.trans_le (Nat.pow_le_pow_right (by decide) (by omega))⟩
  · constructor
    · calc 2 ^ (mantissaBits p - 1)
          = 2 ^ mag.log2 * 2 ^ (mantissaBits p - (mag.log2 + 1)) := by
            rw [← Nat.pow_add]; congr 1; omega
        _ ≤ _ := Nat.mul_le_mul_right _ low
    · calc mag * 2 ^ (mantissaBits p - (mag.log2 + 1))
          < 2 ^ (mag.log2 + 1) * 2 ^ (mantissaBits p - (mag.log2 + 1)) :=
            Nat.mul_lt_mul_of_pos_right high (by positivity)
        _ = 2 ^ mantissaBits p := by rw [← Nat.pow_add]; congr 1; omega

/-- The bits below the unit are dropped, the others count as they did. -/
theorem floMantissa_value :
    floMantissa p mag * 2 ^ (256 + (mag.log2 + 1)) =
      mag / keptUnit p mag * keptUnit p mag * floatScale p := by
  rw [floMantissa, keptUnit, floatScale]
  split
  · rw [Nat.mul_assoc, ← Nat.pow_add]
    congr 2
    omega
  · rw [Nat.sub_eq_zero_of_le (n := mag.log2 + 1) (by omega), Nat.pow_zero, Nat.div_one, Nat.mul_one,
      Nat.mul_assoc, ← Nat.pow_add]
    congr 2
    omega

end Magnitude

theorem flo_zero (p : Precision) {x : Word} (zero : x.toInt = 0) : flo p x = 0 := by
  rw [flo, zero]
  rfl

theorem flo_nonzero (p : Precision) {x : Word} (nonzero : x.toInt ≠ 0) :
    flo p x = pack p (decide (x.toInt < 0)) (256 + (x.toInt.natAbs.log2 + 1))
      (floMantissa p x.toInt.natAbs) :=
  if_neg (Int.natAbs_ne_zero.mpr nonzero)

/-- The value of flo_p (R343, R344). -/
theorem scaledValue_flo (p : Precision) (x : Word) :
    scaledValue p (flo p x) = x.toInt.sign *
      (x.toInt.natAbs / keptUnit p x.toInt.natAbs * keptUnit p x.toInt.natAbs * floatScale p : Nat) := by
  by_cases zero : x.toInt = 0
  · have exponent : exponentField p 0 = 0 := by cases p <;> rfl
    rw [flo_zero p zero, scaledValue_eq_zero exponent, zero, Int.sign_zero, Int.zero_mul]
  · obtain ⟨normal, bound⟩ := floMantissa_normal p (Int.natAbs_ne_zero.mpr zero)
    have sign : signFactor (decide (x.toInt < 0)) = x.toInt.sign := by
      by_cases negative : x.toInt < 0
      · simp [signFactor, negative, Int.sign_eq_neg_one_of_neg]
      · simp [signFactor, negative, Int.sign_eq_one_of_pos (show 0 < x.toInt by omega)]
    have short := log2_natAbs_toInt x
    rw [flo_nonzero p zero,
      scaledValue_of_unpack (unpack_pack _ (by omega) (by omega) normal bound), sign,
      ← floMantissa_value]
    rfl

/-! ## The obligations -/

/-- Settles O40: each row converts at its precision, truncating or rounding. -/
theorem toIntegerResult : Obligations.ToIntegerResult := by
  intro s dr f i p round listed v n
  have runs : exec i s = toInteger p round dr f s := by
    simp only [List.mem_cons, List.not_mem_nil, or_false] at listed
    rcases listed with same | same | same | same <;> cases same <;> rfl
  rw [runs]
  exact toInteger_result s p round dr f

/-- Settles O41: the packed number in each precision; no bit of an integer lies below the 55 of the double
mantissa. -/
theorem fromIntegerResult : Obligations.FromIntegerResult := by
  intro s f sra x unit
  have zeroWord (p : Precision) (zero : x = 0) (n : Nat) : BitVec.ofNat n (flo p (s.reg sra)) = 0 := by
    rw [flo_zero p zero]
    rfl
  refine ⟨?single, ?double⟩
  case single =>
    obtain ⟨wrote, continues, frame⟩ :=
      setReg_next_writes s (cellHigh f) (BitVec.ofNat 32 (flo .single (s.reg sra)))
    refine ⟨_, _, rfl, wrote, ?_, fun zero => zeroWord .single zero 32, continues, frame⟩
    rw [BitVec.toNat_ofNat]
    exact (scaledValue_mod .single _).trans (scaledValue_flo .single (s.reg sra))
  case double =>
    obtain ⟨high, low⟩ := wrote_setFD s f (BitVec.ofNat 64 (flo .double (s.reg sra)))
    refine ⟨_, _, rfl, high.congr rfl rfl, low.congr rfl rfl, ?_, fun zero => zeroWord .double zero 64,
      ⟨by simp, by simp [State.setFD]⟩, (Unchanged.refl.setFD _).next⟩
    rw [BitVec.toNat_ofNat]
    refine (scaledValue_mod .double _).trans ((scaledValue_flo .double (s.reg sra)).trans ?_)
    rw [keptUnit_double, Nat.div_one, Nat.mul_one, Int.natCast_mul, ← Int.mul_assoc,
      Int.sign_mul_natAbs]

end Sys2Proof.Machine
end

section
/-! PROOFS. What the inter-register instructions on floating registers leave (41_inter_register.md R259 to
R267, R277 to R293): the tainted result, its event on the flags, and the skip on the delivered number. -/

namespace Sys2Proof.Machine

/-! ## The floating result -/

/-- What a floating result leaves before P moves (10_state.md R34, R35, R38): `rs` are the cells of its
register. -/
structure Delivered (s t : State) (rs : List Reg) (e : FloatEvent) : Prop where
  ovf : t.ovf = (s.ovf || e == .overflow)
  unf : t.unf = (s.unf || e == .underflow)
  pc : t.pc = s.pc
  nib : t.nib = s.nib
  params : t.params = s.params
  frame : Unchanged s t rs [.flags]

section Result

variable (s : State) (f : FReg) (bits : Nat) (e : FloatEvent)

/-- A single result is one cell (10_state.md R26). -/
theorem setTaintedFreg_single_result :
    let t := (s.setTaintedFreg .single f bits).note e
    Wrote t (cellHigh f) (BitVec.ofNat 32 bits) true ∧ Delivered s t [cellHigh f] e := by
  refine ⟨(wrote_setTaintedReg s ..).congr (note_regs ..) (note_taint ..), ?_, ?_, ?_, ?_, ?_,
    (Unchanged.refl.setTaintedReg _).note e⟩
  all_goals simp [State.setTaintedFreg, State.setTaintedF]

/-- A double result is two cells (10_state.md R27). -/
theorem setTaintedFreg_double_result :
    let t := (s.setTaintedFreg .double f bits).note e
    Wrote t (cellHigh f) ((BitVec.ofNat 64 bits).extractLsb' 32 32) true ∧
      Wrote t (cellLow f) ((BitVec.ofNat 64 bits).extractLsb' 0 32) true ∧
      Delivered s t [cellHigh f, cellLow f] e := by
  obtain ⟨high, low⟩ := wrote_setTaintedFD s f (BitVec.ofNat 64 bits)
  refine ⟨high.congr (note_regs ..) (note_taint ..), low.congr (note_regs ..) (note_taint ..),
    ?_, ?_, ?_, ?_, ?_, (Unchanged.refl.setTaintedFD _).note e⟩
  all_goals simp [State.setTaintedFreg, State.setTaintedFD]

end Result

theorem Delivered.continues {s t : State} {rs : List Reg} {e : FloatEvent} (h : Delivered s t rs e) :
    Continues s t.next :=
  ⟨congrArg (· + 1) h.pc, h.nib⟩

theorem Delivered.skipsIf {s t : State} {rs : List Reg} {e : FloatEvent} (h : Delivered s t rs e)
    {b : Bool} {c : Prop} (test : b = true ↔ c) : SkipsIf s (t.skipIf b) c :=
  skipsIf_of_test test (by rw [skipIf_pc, h.pc]) (by rw [skipIf_nib, h.nib])

/-! ## The result read back -/

section ReadBack

variable {t : State} {f : FReg} {bits : Nat}

theorem exponentField_zero_append (low : Word) : exponentField .double (0#32 ++ low).toNat = 0 := by
  have small : low.toNat < 2 ^ 54 := low.isLt.trans (by decide)
  rw [BitVec.toNat_append, BitVec.toNat_ofNat, Nat.zero_mod, Nat.zero_shiftLeft, Nat.zero_or,
    exponentField, mantissaBits, Nat.div_eq_of_lt small, Nat.zero_mod]

theorem scaledValue_freg_single (wrote : Wrote t (cellHigh f) (BitVec.ofNat 32 bits) true) :
    scaledValue .single (t.freg .single f) =
      if cellHigh f = 0#6 then 0 else scaledValue .single bits := by
  have read : t.freg .single f = (t.reg (cellHigh f)).toNat := rfl
  rw [read, wrote.value]
  by_cases zero : cellHigh f = 0#6
  · rw [if_pos zero, if_pos zero]
    exact scaledValue_eq_zero rfl
  · rw [if_neg zero, if_neg zero, BitVec.toNat_ofNat]
    exact scaledValue_mod .single bits

/-- The sign and the exponent of a double number are in the cell of its number, which is GR_0 for FD_0. -/
theorem scaledValue_freg_double
    (high : Wrote t (cellHigh f) ((BitVec.ofNat 64 bits).extractLsb' 32 32) true)
    (low : Wrote t (cellLow f) ((BitVec.ofNat 64 bits).extractLsb' 0 32) true) :
    scaledValue .double (t.freg .double f) =
      if cellHigh f = 0#6 then 0 else scaledValue .double bits := by
  have read : t.freg .double f = (t.reg (cellHigh f) ++ t.reg (cellLow f)).toNat := rfl
  have lowCell : cellLow f ≠ 0#6 := by
    intro zero
    have y : (f.bits true).getLsbD 4 = (0#6).getLsbD 4 := congrArg (BitVec.getLsbD · 4) zero
    rw [FReg.yBit_bits] at y
    exact Bool.false_ne_true y.symm
  rw [read, high.value, low.value, if_neg lowCell]
  by_cases zero : cellHigh f = 0#6
  · rw [if_pos zero, if_pos zero]
    exact scaledValue_eq_zero (exponentField_zero_append _)
  · have whole : (BitVec.ofNat 64 bits).extractLsb' 32 32 ++ (BitVec.ofNat 64 bits).extractLsb' 0 32 =
        BitVec.ofNat 64 bits :=
      (BitVec.extractLsb'_append_extractLsb'_eq_extractLsb' rfl).trans BitVec.extractLsb'_eq_self
    rw [if_neg zero, if_neg zero, whole, BitVec.toNat_ofNat]
    exact scaledValue_mod .double bits

/-- What FRS tests (92_eei_decisions.md D18): the number delivered, or the register read back. -/
theorem floatHolds_testedFreg {s : State} {p : Precision} (rl : Relation) (params : t.params = s.params)
    (back : scaledValue p (t.freg p f) = if cellHigh f = 0#6 then 0 else scaledValue p bits) :
    floatHolds rl p (t.testedFreg p f bits) = true ↔
      Related rl (if cellHigh f = 0 ∧ s.params.r0DestTest = .reread then 0 else scaledValue p bits)
        0 := by
  rw [floatHolds_iff_related, State.testedFreg, params]
  cases s.params.r0DestTest with
  | result => simp
  | reread => simp [back]

end ReadBack

/-! ## The shared meanings -/

section Meaning

variable (s : State) (df : FReg) (sra srb : FDesignator)

theorem floatRegister_single_result (op : ArithOp) :
    let res := floatArith op .single (s.f sra.reg).toNat (s.f srb.reg).toNat
    ∃ t, floatRegister op .single df sra srb s = .next t ∧
      Wrote t (cellHigh df) (BitVec.ofNat 32 res.bits) true ∧
      t.ovf = (s.ovf || res.event == .overflow) ∧ t.unf = (s.unf || res.event == .underflow) ∧
      Continues s t ∧ Unchanged s t [cellHigh df] [.flags] := by
  intro res
  obtain ⟨wrote, delivered⟩ := setTaintedFreg_single_result s df res.bits res.event
  exact ⟨_, rfl, wrote.congr rfl rfl, delivered.ovf, delivered.unf, delivered.continues,
    delivered.frame.next⟩

theorem floatRegister_double_result (op : ArithOp) :
    let res := floatArith op .double (s.fd sra.reg).toNat (s.fd srb.reg).toNat
    ∃ t, floatRegister op .double df sra srb s = .next t ∧
      Wrote t (cellHigh df) ((BitVec.ofNat 64 res.bits).extractLsb' 32 32) true ∧
      Wrote t (cellLow df) ((BitVec.ofNat 64 res.bits).extractLsb' 0 32) true ∧
      t.ovf = (s.ovf || res.event == .overflow) ∧ t.unf = (s.unf || res.event == .underflow) ∧
      Continues s t ∧ Unchanged s t [cellHigh df, cellLow df] [.flags] := by
  intro res
  obtain ⟨high, low, delivered⟩ := setTaintedFreg_double_result s df res.bits res.event
  exact ⟨_, rfl, high.congr rfl rfl, low.congr rfl rfl, delivered.ovf, delivered.unf,
    delivered.continues, delivered.frame.next⟩

theorem floatSkip_single_result (rl : Relation) (sb : Bool) :
    let res := addSub .single sb (s.f sra.reg).toNat (s.f srb.reg).toNat
    let tested := if cellHigh df = 0 ∧ s.params.r0DestTest = .reread then 0
      else scaledValue .single res.bits
    ∃ t, floatSkip rl sb .single df sra srb s = .next t ∧
      Wrote t (cellHigh df) (BitVec.ofNat 32 res.bits) true ∧
      t.ovf = (s.ovf || res.event == .overflow) ∧ t.unf = (s.unf || res.event == .underflow) ∧
      SkipsIf s t (Related rl tested 0) ∧ Unchanged s t [cellHigh df] [.flags] := by
  intro res tested
  obtain ⟨wrote, delivered⟩ := setTaintedFreg_single_result s df res.bits res.event
  have test := floatHolds_testedFreg rl delivered.params (scaledValue_freg_single wrote)
  exact ⟨_, rfl, wrote.congr (skipIf_regs ..) (skipIf_taint ..), (skipIf_ovf ..).trans delivered.ovf,
    (skipIf_unf ..).trans delivered.unf,
    delivered.skipsIf test, delivered.frame.skipIf _⟩

theorem floatSkip_double_result (rl : Relation) (sb : Bool) :
    let res := addSub .double sb (s.fd sra.reg).toNat (s.fd srb.reg).toNat
    let tested := if cellHigh df = 0 ∧ s.params.r0DestTest = .reread then 0
      else scaledValue .double res.bits
    ∃ t, floatSkip rl sb .double df sra srb s = .next t ∧
      Wrote t (cellHigh df) ((BitVec.ofNat 64 res.bits).extractLsb' 32 32) true ∧
      Wrote t (cellLow df) ((BitVec.ofNat 64 res.bits).extractLsb' 0 32) true ∧
      t.ovf = (s.ovf || res.event == .overflow) ∧ t.unf = (s.unf || res.event == .underflow) ∧
      SkipsIf s t (Related rl tested 0) ∧ Unchanged s t [cellHigh df, cellLow df] [.flags] := by
  intro res tested
  obtain ⟨high, low, delivered⟩ := setTaintedFreg_double_result s df res.bits res.event
  have test := floatHolds_testedFreg rl delivered.params (scaledValue_freg_double high low)
  exact ⟨_, rfl, high.congr (skipIf_regs ..) (skipIf_taint ..),
    low.congr (skipIf_regs ..) (skipIf_taint ..), (skipIf_ovf ..).trans delivered.ovf,
    (skipIf_unf ..).trans delivered.unf,
    delivered.skipsIf test, delivered.frame.skipIf _⟩

end Meaning

/-! ## The obligations -/

/-- Settles O45: each row is the function of its setting, in each precision. -/
theorem floatRegisterResult : Obligations.FloatRegisterResult := by
  intro s df sra srb i op
  refine ⟨fun listed => ?single, fun listed => ?double⟩
  case single =>
    have runs : exec i s = floatRegister op .single df sra srb s := by
      simp only [List.mem_cons, List.not_mem_nil, or_false] at listed
      rcases listed with same | same | same | same | same | same | same | same <;> cases same <;> rfl
    rw [runs]
    exact floatRegister_single_result s df sra srb op
  case double =>
    have runs : exec i s = floatRegister op .double df sra srb s := by
      simp only [List.mem_cons, List.not_mem_nil, or_false] at listed
      rcases listed with same | same | same | same | same | same | same | same <;> cases same <;> rfl
    rw [runs]
    exact floatRegister_double_result s df sra srb op

/-- Settles O47: each row is the sum or difference and the relation of its setting, in each precision. -/
theorem floatSkipResult : Obligations.FloatSkipResult := by
  intro s rl sb df sra srb i rl' sb'
  refine ⟨fun listed => ?single, fun listed => ?double⟩
  case single =>
    have runs : exec i s = floatSkip rl' sb' .single df sra srb s := by
      simp only [List.mem_cons, List.not_mem_nil, or_false] at listed
      rcases listed with same | same | same | same | same | same | same | same | same <;>
        cases same <;> rfl
    rw [runs]
    exact floatSkip_single_result s df sra srb rl' sb'
  case double =>
    have runs : exec i s = floatSkip rl' sb' .double df sra srb s := by
      simp only [List.mem_cons, List.not_mem_nil, or_false] at listed
      rcases listed with same | same | same | same | same | same | same | same | same <;>
        cases same <;> rfl
    rw [runs]
    exact floatSkip_double_result s df sra srb rl' sb'

end Sys2Proof.Machine
end

section
/-! PROOFS. What the argument instructions leave (42_argument.md R300 to R319): the argument as a word and as
a number, and then the three groups. -/

namespace Sys2Proof.Machine

/-! ## The argument -/

section Argument

variable (a : BitVec 16)

/-- Az as the claims write it (R300). -/
theorem argWord_eq_append : argWord a = 0#16 ++ a := by
  refine BitVec.eq_of_toNat_eq ?_
  rw [argWord, BitVec.toNat_append, BitVec.toNat_setWidth_of_le (by decide)]
  simp

/-- Sixteen upper zeros leave bit 31 clear: Az is A, signed or not. -/
theorem toInt_zero_append : (0#16 ++ a : Word).toInt = a.toNat := by
  have bound := a.isLt
  rw [← argWord_eq_append, argWord, BitVec.toInt_setWidth, Int.bmod_eq_of_le] <;> omega

theorem not_outOfRange_argument : ¬OutOfRange (a.toNat : Int) :=
  toInt_zero_append a ▸ not_outOfRange_toInt _

theorem not_outOfRange_neg_argument : ¬OutOfRange (-a.toNat : Int) := by
  have bound := a.isLt
  rw [OutOfRange]
  omega

theorem intWord_argument : intWord a.toNat = 0#16 ++ a := by
  rw [← toInt_zero_append, intWord, BitVec.ofInt_toInt]

theorem intWord_add_argument (x : Word) : intWord (x.toInt + a.toNat) = x + (0#16 ++ a) := by
  rw [← toInt_zero_append, intWord_add]

theorem intWord_sub_argument (x : Word) : intWord (x.toInt - a.toNat) = x - (0#16 ++ a) := by
  rw [← toInt_zero_append, intWord_sub]

/-- SECA delivers what ADCA does on a register that holds zero (R307, R309). -/
theorem intWord_neg_argument : intWord (-a.toNat) = 0 - (0#16 ++ a) := by
  rw [← intWord_sub_argument, ← Int.zero_sub]
  rfl

end Argument

/-! ## The skip on a comparison -/

theorem holdsInt_iff_related (rl : Relation) (x y : Int) : holdsInt rl x y = true ↔ Related rl x y := by
  cases rl <;> exact decide_eq_true_iff

/-- DSK (R310): the test is the relation to A or -A. -/
theorem directSkip_result (s : State) (cm : Bool) (rl : Relation) (dr : Reg) (a : BitVec 16) :
    ∃ t, directSkip cm rl dr a s = .next t ∧
      SkipsIf s t (Related rl (s.reg dr).toInt (if cm then -a.toNat else a.toNat)) ∧
      Unchanged s t [] [] :=
  ⟨_, rfl, skipsIf_of_test (holdsInt_iff_related ..), Unchanged.refl.skipIf _⟩

/-! ## The obligations -/

/-- Settles O48: each row is the logical function of its setting. -/
theorem directLogicResult : Obligations.DirectLogicResult := by
  intro s dr a x az i j lf v listed
  obtain ⟨word, wellFormed, mnemonic, parent⟩ : encode i = encodeAR 0 lf dr a ∧ i.wellFormed = true ∧
      exec i s = .next (s.setReg dr v).next ∧ exec j s = .next (s.setReg dr v).next := by
    have argument : az = argWord a := (argWord_eq_append a).symm
    rw [argument] at listed
    obtain same | same | same | same := mem_four_iff.mp listed <;> cases same <;>
      exact ⟨rfl, rfl, rfl, rfl⟩
  exact ⟨decodeWord_of_encode wellFormed word, _, mnemonic, parent, setReg_next_writes s dr v⟩

/-- Settles O49: each row delivers the true result of its setting, and SETA and SECA never overflow. -/
theorem directArithResult : Obligations.DirectArithResult := by
  intro s dr a x az i j v overflow listed
  obtain ⟨af, mnemonic, parent, value, range⟩ : ∃ af, exec i s = directArith af dr a s ∧
      exec j s = directArith af dr a s ∧ intWord (directTrue af x a) = v ∧
      (OutOfRange (directTrue af x a) ↔ overflow) := by
    obtain same | same | same | same := mem_four_iff.mp listed <;> cases same
    · exact ⟨.set, rfl, rfl, intWord_argument a, iff_false_intro (not_outOfRange_argument a)⟩
    · exact ⟨.setNeg, rfl, rfl, intWord_neg_argument a,
        iff_false_intro (not_outOfRange_neg_argument a)⟩
    · exact ⟨.add, rfl, rfl, intWord_add_argument a x, Iff.rfl⟩
    · exact ⟨.sub, rfl, rfl, intWord_sub_argument a x, Iff.rfl⟩
  rw [← value, ← propext range]
  exact ⟨_, mnemonic, parent, setInt_result s dr _⟩

/-- Settles O50: each row is the comparison of its setting. -/
theorem directSkipResult : Obligations.DirectSkipResult := by
  intro s dr a x az i j afc rl c listed
  obtain ⟨word, wellFormed, cm, rel, mnemonic, parent, relation⟩ :
      encode i = encodeAR afc rl dr a ∧ i.wellFormed = true ∧ ∃ cm rel,
        exec i s = directSkip cm rel dr a s ∧ exec j s = directSkip cm rel dr a s ∧
          Related rel x (if cm then -az else az) = c := by
    simp only [List.mem_cons, List.not_mem_nil, or_false] at listed
    rcases listed with same | same | same | same | same | same | same | same <;> cases same <;>
      exact ⟨rfl, rfl, _, _, rfl, rfl, rfl⟩
  obtain ⟨t, next, skips, frame⟩ := directSkip_result s cm rel dr a
  exact ⟨decodeWord_of_encode wellFormed word, t, mnemonic.trans next, parent.trans next,
    relation ▸ skips, frame⟩

end Sys2Proof.Machine
end

section
/-! PROOFS. Packed words and numbers before finish_p (43_floating_numerics.md R322 to R327, R336, R337).
A result that is not zero is one number handed to finish_p: what the exact result has to do with that
number is said once, and the range of the exponent, the forced words and the error of the word follow. -/

namespace Sys2Proof.Machine

/-! ## Packing and unpacking -/

theorem testBit_top {n i : Nat} (h : n < 2 ^ (i + 1)) : n.testBit i = decide (2 ^ i ≤ n) := by
  by_cases top : 2 ^ i ≤ n
  · rw [Nat.testBit_of_two_pow_le_and_two_pow_add_one_gt top h, decide_eq_true top]
  · rw [Nat.testBit_lt_two_pow (not_le.mp top), decide_eq_false top]

/-- The full mantissas of p bits are those between half of 2^p and 2^p (R325). -/
theorem two_pow_mantissaBits (p : Precision) :
    2 ^ mantissaBits p = 2 * 2 ^ (mantissaBits p - 1) := by
  rw [Nat.mul_comm, Nat.pow_pred_mul (mantissaBits_pos p)]

/-- A number that pack_p accepts (R325, R327). -/
structure Unpacked.Normal (p : Precision) (u : Unpacked) : Prop where
  one_le : 1 ≤ u.e
  le_max : u.e ≤ 511
  low : 2 ^ (mantissaBits p - 1) ≤ u.m
  high : u.m < 2 ^ mantissaBits p

theorem normal_of_unpack {p : Precision} {w : Nat} {u : Unpacked} (h : unpack p w = some u) :
    u.Normal p := by
  rw [unpack] at h
  split at h
  case isTrue => contradiction
  case isFalse nonzero =>
    cases h
    have exponent : exponentField p w < 2 ^ 9 := Nat.mod_lt _ (by decide)
    have fraction : w % 2 ^ (mantissaBits p - 1) < 2 ^ (mantissaBits p - 1) :=
      Nat.mod_lt _ (by positivity)
    have double := two_pow_mantissaBits p
    exact ⟨Nat.one_le_iff_ne_zero.mpr nonzero, Nat.le_of_lt_succ exponent, Nat.le_add_right ..,
      by simp only; omega⟩

namespace Unpacked.Normal

variable {p : Precision} {u : Unpacked} (h : u.Normal p)

include h in
/-- The magnitude is between the least mantissa and 2^p, in units of the exponent. -/
theorem magnitude_bounds :
    2 ^ (mantissaBits p - 1) * 2 ^ u.e ≤ u.magnitude ∧ u.magnitude < 2 ^ mantissaBits p * 2 ^ u.e :=
  ⟨Nat.mul_le_mul_right _ h.low, Nat.mul_lt_mul_of_pos_right h.high (by positivity)⟩

include h in
theorem magnitude_pos : 0 < u.magnitude :=
  Nat.mul_pos (lt_of_lt_of_le (by positivity) h.low) (by positivity)

end Unpacked.Normal

/-- pack_p undoes unpack_p on a word of W bits (R327). -/
theorem pack_unpack {p : Precision} {w : Nat} {u : Unpacked} (small : w < 2 ^ wordBits p)
    (h : unpack p w = some u) : pack p u.s u.e u.m = w := by
  rw [unpack] at h
  split at h
  case isTrue => contradiction
  case isFalse =>
    cases h
    have top : w / 2 ^ (mantissaBits p - 1) / 2 ^ 9 < 2 := by
      rw [wordBits_eq, Nat.pow_succ, Nat.pow_add] at small
      rw [Nat.div_div_eq_div_mul]
      exact Nat.div_lt_of_lt_mul small
    have sign : (signBit p w).toNat = w / 2 ^ (mantissaBits p - 1) / 2 ^ 9 := by
      rw [signBit, wordBits_eq, Nat.add_sub_cancel, Nat.testBit_eq_decide_div_mod_eq, Nat.pow_add,
        ← Nat.div_div_eq_div_mul, Nat.mod_eq_of_lt top]
      generalize w / 2 ^ (mantissaBits p - 1) / 2 ^ 9 = q at top ⊢
      interval_cases q <;> rfl
    rw [pack_eq, sign, exponentField, Nat.add_sub_cancel_left, Nat.mod_add_div, Nat.mod_add_div]

/-- Below its sign, pack_p needs W - 1 bits. -/
theorem pack_false_lt {p : Precision} {e m : Nat} (high : e ≤ 511) (bound : m < 2 ^ mantissaBits p) :
    pack p false e m < 2 ^ (wordBits p - 1) := by
  have double := two_pow_mantissaBits p
  have exponent : 2 ^ (mantissaBits p - 1) * e ≤ 2 ^ (mantissaBits p - 1) * 511 :=
    Nat.mul_le_mul_left _ high
  rw [pack_eq, wordBits_eq, Nat.add_sub_cancel, Nat.pow_add, Bool.toNat_false, Nat.mul_zero,
    Nat.add_zero]
  have fraction : 0 < 2 ^ (mantissaBits p - 1) := by positivity
  omega

theorem pack_sign (p : Precision) (s : Bool) (e m : Nat) :
    pack p s e m = signValue p s + pack p false e m := by
  rw [pack, pack, Nat.add_assoc, Nat.add_assoc, signValue, signValue, if_neg Bool.false_ne_true,
    Nat.zero_add]

/-- A number of at most W - 1 bits, below a sign, is a word. -/
theorem signValue_add_lt {p : Precision} {n : Nat} (s : Bool) (h : n < 2 ^ (wordBits p - 1)) :
    signValue p s + n < 2 ^ wordBits p := by
  have double : 2 ^ wordBits p = 2 * 2 ^ (wordBits p - 1) := by cases p <;> rfl
  rw [signValue]
  split <;> omega

theorem two_pow_add_eq_xor {n k : Nat} (h : n < 2 ^ k) : 2 ^ k + n = n ^^^ 2 ^ k := by
  have sum := Nat.two_pow_add_eq_or_of_lt h 1
  rw [Nat.mul_one] at sum
  rw [sum]
  refine Nat.eq_of_testBit_eq fun i => ?_
  have high : i = k → n.testBit i = false := fun same => Nat.testBit_lt_two_pow (same ▸ h)
  by_cases same : k = i
  · simp [same, high same.symm]
  · simp [same]

/-- Negating a number is complementing bit W - 1 (R324). -/
theorem pack_not {p : Precision} {u : Unpacked} (h : u.Normal p) :
    pack p (!u.s) u.e u.m = pack p u.s u.e u.m ^^^ 2 ^ (wordBits p - 1) := by
  have small := pack_false_lt h.le_max h.high
  rw [pack_sign p (!u.s), pack_sign p u.s]
  cases u.s with
  | false => simp [signValue, two_pow_add_eq_xor small]
  | true => simp [signValue, two_pow_add_eq_xor small]

/-- Bit 0 of a word is that of the mantissa: the hidden bit is another one. -/
theorem pack_mod_two {p : Precision} {m : Nat} (s : Bool) (e : Nat)
    (normal : 2 ^ (mantissaBits p - 1) ≤ m) : pack p s e m % 2 = m % 2 := by
  rw [pack_eq]
  cases p <;> simp only [mantissaBits] at normal ⊢ <;> omega

theorem exponentField_pack {p : Precision} {e m : Nat} (s : Bool) (low : 1 ≤ e) (high : e ≤ 511)
    (normal : 2 ^ (mantissaBits p - 1) ≤ m) (bound : m < 2 ^ mantissaBits p) :
    exponentField p (pack p s e m) = e := by
  have unpacked := unpack_pack s low (Nat.lt_succ_of_le high) normal bound
  rw [unpack] at unpacked
  split at unpacked
  · contradiction
  · exact congrArg Unpacked.e (Option.some.inj unpacked)

/-! ## Before finish_p -/

/-- A number before finish_p (R327): a sign, an exponent `up - down` that may lie outside 1 .. 511, and a
full mantissa. -/
structure Rounded where
  s : Bool
  up : Nat
  down : Nat
  m : Nat

def Rounded.finish (p : Precision) (x : Rounded) : FloatResult :=
  Machine.finish p x.s ((x.up : Int) - x.down) x.m

/-- How far the number is from `±n / den`, in units of `1 / (2 ^ down * den)`. -/
def Rounded.error (x : Rounded) (n den : Nat) : Nat :=
  ((x.m * 2 ^ x.up * den : Nat) - (n * 2 ^ x.down : Nat) : Int).natAbs

/-- The number is normalised, and its exponent leaves the range exactly when the magnitude `n / den`
reaches the limit of overflow or lies below the least number (R336, R337). -/
structure Rounded.Represents (p : Precision) (limit n den : Nat) (x : Rounded) : Prop where
  low : 2 ^ (mantissaBits p - 1) ≤ x.m
  high : x.m < 2 ^ mantissaBits p
  positive : 0 < n
  overflow : x.down + 511 < x.up ↔ limit * den ≤ n
  underflow : x.up ≤ x.down ↔ n < 2 ^ mantissaBits p * den

/-! ### The three outcomes of finish_p -/

section Finish

variable (p : Precision) {x : Rounded}

theorem finish_of_overflow (above : x.down + 511 < x.up) :
    x.finish p = ⟨signValue p x.s + (2 ^ (wordBits p - 1) - 1), .overflow⟩ :=
  if_pos (by omega)

theorem finish_of_underflow (below : x.up ≤ x.down) : x.finish p = ⟨0, .underflow⟩ := by
  rw [Rounded.finish, Machine.finish, if_neg (by omega), if_pos (by omega)]

theorem finish_of_inside (above : x.down < x.up) (below : x.up ≤ x.down + 511) :
    x.finish p = ⟨pack p x.s (x.up - x.down) x.m, .none⟩ := by
  have exponent : ((x.up : Int) - x.down).toNat = x.up - x.down := by omega
  rw [Rounded.finish, Machine.finish, if_neg (by omega), if_neg (by omega), exponent]

/-- A number is finished as it is exactly when its exponent is in range. -/
theorem finish_cases (x : Rounded) :
    (x.down + 511 < x.up ∧ x.finish p = ⟨signValue p x.s + (2 ^ (wordBits p - 1) - 1), .overflow⟩) ∨
    (x.up ≤ x.down ∧ x.finish p = ⟨0, .underflow⟩) ∨
    (x.down < x.up ∧ x.up ≤ x.down + 511 ∧
      x.finish p = ⟨pack p x.s (x.up - x.down) x.m, .none⟩) := by
  by_cases above : x.down + 511 < x.up
  · exact .inl ⟨above, finish_of_overflow p above⟩
  · by_cases below : x.up ≤ x.down
    · exact .inr (.inl ⟨below, finish_of_underflow p below⟩)
    · exact .inr (.inr ⟨by omega, by omega, finish_of_inside p (by omega) (by omega)⟩)

end Finish

/-! ### The forced words -/

/-- What O54 says of one result, whose exact value is `num / den`. -/
structure Forced (p : Precision) (limit : Nat) (num : Int) (den : Nat) (r : FloatResult) : Prop where
  word : r.bits < 2 ^ wordBits p
  overflow : r.event = .overflow ↔ limit * den ≤ num.natAbs
  underflow : r.event = .underflow ↔ num ≠ 0 ∧ num.natAbs < 2 ^ mantissaBits p * den
  greatest : r.event = .overflow →
    r.bits = if num < 0 then 2 ^ wordBits p - 1 else 2 ^ (wordBits p - 1) - 1
  zero : r.event = .underflow → r.bits = 0
  normal : r.event = .none → if num = 0 then r.bits = 0 else 1 ≤ exponentField p r.bits

/-- An exact zero is the zero word without an event (R332). -/
theorem forced_floatZero (p : Precision) {limit den : Nat} (reach : 0 < limit * den) :
    Forced p limit 0 den floatZero where
  word := Nat.two_pow_pos _
  overflow := ⟨nofun, fun reached => by rw [Int.natAbs_zero] at reached; omega⟩
  underflow := ⟨nofun, fun both => absurd rfl both.1⟩
  greatest := nofun
  zero := nofun
  normal _ := by rw [if_pos rfl]; rfl

theorem signFactor_mul_natAbs (s : Bool) (n : Nat) : (signFactor s * n).natAbs = n := by
  cases s <;> simp [signFactor]

theorem signFactor_mul_eq_zero {s : Bool} {n : Nat} : signFactor s * n = 0 ↔ n = 0 := by
  cases s <;> simp [signFactor]

theorem signFactor_mul_neg {s : Bool} {n : Nat} (positive : 0 < n) :
    signFactor s * n < 0 ↔ s = true := by
  cases s <;> simp [signFactor, positive]

/-- The greatest word of a sign: all bits but the sign are one (R336). -/
theorem signValue_greatest (p : Precision) (s : Bool) :
    signValue p s + (2 ^ (wordBits p - 1) - 1) =
      if s then 2 ^ wordBits p - 1 else 2 ^ (wordBits p - 1) - 1 := by
  cases p <;> cases s <;> rfl

namespace Rounded.Represents

variable {p : Precision} {limit n den : Nat} {x : Rounded} (h : x.Represents p limit n den)

include h in
/-- Each outcome of finish_p is the one that the exact result asks for. -/
theorem forced : Forced p limit (signFactor x.s * n) den (x.finish p) := by
  have number : signFactor x.s * (n : Int) ≠ 0 := signFactor_mul_eq_zero.not.mpr h.positive.ne'
  have negative := signFactor_mul_neg (s := x.s) h.positive
  have overflows : limit * den ≤ (signFactor x.s * n).natAbs ↔ x.down + 511 < x.up := by
    rw [signFactor_mul_natAbs, h.overflow]
  have underflows : signFactor x.s * (n : Int) ≠ 0 ∧
      (signFactor x.s * n).natAbs < 2 ^ mantissaBits p * den ↔ x.up ≤ x.down := by
    rw [and_iff_right number, signFactor_mul_natAbs, h.underflow]
  obtain ⟨above, result⟩ | ⟨below, result⟩ | ⟨above, below, result⟩ := finish_cases p x <;>
    rw [result]
  · exact {
      word := signValue_add_lt _ (Nat.sub_lt (by positivity) Nat.one_pos)
      overflow := iff_of_true rfl (overflows.mpr above)
      underflow := iff_of_false nofun (by rw [underflows]; omega)
      greatest := fun _ => by simp only [signValue_greatest, negative]
      zero := nofun
      normal := nofun }
  · exact {
      word := by positivity
      overflow := iff_of_false nofun (by rw [overflows]; omega)
      underflow := iff_of_true rfl (underflows.mpr below)
      greatest := nofun
      zero := fun _ => rfl
      normal := nofun }
  · exact {
      word := by
        rw [pack_sign]
        exact signValue_add_lt _ (pack_false_lt (by omega) h.high)
      overflow := iff_of_false nofun (by rw [overflows]; omega)
      underflow := iff_of_false nofun (by rw [underflows]; omega)
      greatest := nofun
      zero := nofun
      normal := fun _ => by
        rw [if_neg number, exponentField_pack _ (by omega) (by omega) h.low h.high]
        omega }

/-! ### The delivered number -/

include h in
/-- Without an event, the word has the exponent, the number and the bit 0 of what was finished. -/
theorem delivered (quiet : (x.finish p).event = .none) :
    2 ^ exponentField p (x.finish p).bits * 2 ^ x.down = 2 ^ x.up ∧
      scaledValue p (x.finish p).bits * 2 ^ x.down = signFactor x.s * (x.m * 2 ^ x.up : Nat) ∧
      (x.finish p).bits % 2 = x.m % 2 := by
  obtain ⟨_, result⟩ | ⟨_, result⟩ | ⟨above, below, result⟩ := finish_cases p x <;>
    rw [result] at quiet ⊢
  · contradiction
  · contradiction
  · have power : 2 ^ (x.up - x.down) * 2 ^ x.down = 2 ^ x.up := by
      rw [← Nat.pow_add, Nat.sub_add_cancel above.le]
    refine ⟨?_, ?_, pack_mod_two _ _ h.low⟩
    · rw [exponentField_pack _ (by omega) (by omega) h.low h.high, power]
    · rw [scaledValue_of_unpack (unpack_pack _ (by omega) (by omega) h.low h.high),
        Unpacked.magnitude, ← power]
      push_cast
      ring

include h in
/-- The error of the word is that of what was finished. -/
theorem error_delivered (quiet : (x.finish p).event = .none) :
    (scaledValue p (x.finish p).bits * den - signFactor x.s * n).natAbs * 2 ^ x.down =
      x.error n den := by
  obtain ⟨_, value, _⟩ := h.delivered quiet
  have scaled : (scaledValue p (x.finish p).bits * den - signFactor x.s * n) * (2 ^ x.down : Nat) =
      signFactor x.s * ((x.m * 2 ^ x.up * den : Nat) - (n * 2 ^ x.down : Nat)) := by
    have := congrArg (· * (den : Int)) value
    push_cast at this ⊢
    linear_combination this
  rw [Rounded.error, ← Int.natAbs_natCast (2 ^ x.down), ← Int.natAbs_mul, scaled, Int.natAbs_mul]
  cases x.s <;> simp [signFactor]

end Rounded.Represents

end Sys2Proof.Machine
end

section
/-! PROOFS. Floating products and quotients (43_floating_numerics.md R333, R334, R338): both truncate a
quotient of two naturals to p bits and set bit 0 when it is inexact. -/

namespace Sys2Proof.Machine

/-! ## Products and quotients -/

/-- The exponent of a number in the bracket of its mantissa is the exponent that its magnitude needs. -/
theorem represents_of_bracket {p : Precision} {n den : Nat} {x : Rounded}
    (normal : 2 ^ (mantissaBits p - 1) ≤ x.m) (bound : x.m < 2 ^ mantissaBits p) (den_pos : 0 < den)
    (low : 2 ^ (mantissaBits p - 1) * 2 ^ x.up * den ≤ n * 2 ^ x.down)
    (high : n * 2 ^ x.down < 2 ^ mantissaBits p * 2 ^ x.up * den) :
    x.Represents p (2 ^ (511 + mantissaBits p)) n den := by
  have pos := mantissaBits_pos p
  have scale : ∀ k : Nat, 2 ^ k * den ≤ n ↔ 2 ^ (k + x.down) * den ≤ n * 2 ^ x.down := fun k => by
    rw [Nat.pow_add, Nat.mul_right_comm]
    exact (Nat.mul_le_mul_right_iff (by positivity)).symm
  rw [← Nat.pow_add] at low high
  -- the magnitude reaches 2^k exactly when the bracket lies above it
  have reaches : ∀ k : Nat, 2 ^ k * den ≤ n ↔ k + x.down < mantissaBits p + x.up := fun k => by
    rw [scale]
    constructor
    · intro reached
      have := lt_of_mul_lt_mul_right (reached.trans_lt high) den.zero_le
      exact (Nat.pow_lt_pow_iff_right (by decide)).mp this
    · intro above
      exact (Nat.mul_le_mul_right _ (Nat.pow_le_pow_right (by decide) (by omega))).trans low
  refine ⟨normal, bound, ?_, ?_, ?_⟩
  · exact Nat.pos_of_mul_pos_right (lt_of_lt_of_le (by positivity) low)
  · rw [reaches]; omega
  · rw [← not_le, reaches]; omega

/-- A product or quotient is `num / den` truncated to p bits, with bit 0 set when it is inexact (R333,
R334). -/
def truncated (s : Bool) (up down num den : Nat) : Rounded :=
  ⟨s, up, down, forceBitZero (num / den) (num % den)⟩

theorem or_one_eq (m : Nat) : m ||| 1 = m / 2 * 2 + 1 := by
  have upper : (m ||| 1) / 2 = m / 2 := by rw [Nat.or_div_two]; exact Nat.or_zero _
  have lower : (m ||| 1) % 2 = 1 := Nat.or_mod_two_eq_one.mpr (.inr rfl)
  omega

/-- Setting bit 0 leaves the mantissa, or adds one to an even mantissa. -/
theorem forceBitZero_cases (m rest : Nat) :
    rest = 0 ∧ forceBitZero m rest = m ∨ rest ≠ 0 ∧ forceBitZero m rest = m / 2 * 2 + 1 := by
  by_cases exact : rest = 0
  · exact .inl ⟨exact, if_neg (not_not.mpr exact)⟩
  · exact .inr ⟨exact, by rw [forceBitZero, if_pos exact, or_one_eq]⟩

/-- Setting bit 0 keeps a mantissa between even bounds. -/
theorem forceBitZero_between {low high m : Nat} (rest : Nat) (even_low : 2 ∣ low) (even_high : 2 ∣ high)
    (above : low ≤ m) (below : m < high) :
    low ≤ forceBitZero m rest ∧ forceBitZero m rest < high := by
  obtain ⟨_, same⟩ | ⟨_, odd⟩ := forceBitZero_cases m rest
  · rw [same]
    exact ⟨above, below⟩
  · rw [odd]
    omega

/-- A truncated quotient is exact, or has bit 0 set and is off by less than the divisor. -/
theorem forceBitZero_error (a : Nat) {b : Nat} (b_pos : 0 < b) :
    (forceBitZero (a / b) (a % b) * b - a : Int).natAbs = 0 ∨
      forceBitZero (a / b) (a % b) % 2 = 1 ∧
        (forceBitZero (a / b) (a % b) * b - a : Int).natAbs < b := by
  have remainder := Nat.mod_lt a b_pos
  have division : (a : Int) = (a / b : Nat) * b + (a % b : Nat) := by
    exact_mod_cast (Nat.div_add_mod' a b).symm
  obtain ⟨exact, same⟩ | ⟨inexact, odd⟩ := forceBitZero_cases (a / b) (a % b)
  · left
    rw [same]
    omega
  · right
    obtain up | down : a / b / 2 * 2 + 1 = a / b + 1 ∨ a / b / 2 * 2 + 1 = a / b := by omega
    · rw [odd]
      refine ⟨by omega, ?_⟩
      rw [up]
      push_cast at division ⊢
      rw [Int.add_mul]
      omega
    · rw [odd]
      refine ⟨by omega, ?_⟩
      rw [down]
      omega

section Truncated

variable {p : Precision} {up down a b n den : Nat}
  (b_pos : 0 < b) (den_pos : 0 < den) (value : n * 2 ^ down * b = a * 2 ^ up * den)

include b_pos den_pos value in
theorem truncated_represents (s : Bool) (low : 2 ^ (mantissaBits p - 1) * b ≤ a)
    (high : a < 2 ^ mantissaBits p * b) :
    (truncated s up down a b).Represents p (2 ^ (511 + mantissaBits p)) n den := by
  have quotient_low : 2 ^ (mantissaBits p - 1) ≤ a / b := (Nat.le_div_iff_mul_le b_pos).mpr low
  have quotient_high : a / b < 2 ^ mantissaBits p := (Nat.div_lt_iff_lt_mul b_pos).mpr high
  obtain ⟨mantissa_low, mantissa_high⟩ := forceBitZero_between (a % b)
    (by cases p <;> decide) (dvd_pow_self 2 (mantissaBits_pos p).ne') quotient_low quotient_high
  refine represents_of_bracket mantissa_low mantissa_high den_pos ?_ ?_
  · refine Nat.le_of_mul_le_mul_right (c := b) ?_ b_pos
    calc 2 ^ (mantissaBits p - 1) * 2 ^ up * den * b
        = 2 ^ (mantissaBits p - 1) * b * (2 ^ up * den) := by ring
      _ ≤ a * (2 ^ up * den) := Nat.mul_le_mul_right _ low
      _ = n * 2 ^ down * b := by rw [value, Nat.mul_assoc]
  · refine Nat.lt_of_mul_lt_mul_right (a := b) ?_
    calc n * 2 ^ down * b
        = a * (2 ^ up * den) := by rw [value, Nat.mul_assoc]
      _ < 2 ^ mantissaBits p * b * (2 ^ up * den) := Nat.mul_lt_mul_of_pos_right high (by positivity)
      _ = 2 ^ mantissaBits p * 2 ^ up * den * b := by ring

include b_pos den_pos value in
/-- Exact, or bit 0 is set and the error is less than one unit (R333, R334). -/
theorem truncated_error (s : Bool) :
    (truncated s up down a b).error n den = 0 ∨
      (truncated s up down a b).m % 2 = 1 ∧
        (truncated s up down a b).error n den < 2 ^ up * den := by
  have scaled : (truncated s up down a b).error n den * b =
      (forceBitZero (a / b) (a % b) * b - a : Int).natAbs * (2 ^ up * den) := by
    rw [Rounded.error, ← Int.natAbs_natCast b, ← Int.natAbs_mul, ← Int.natAbs_natCast (2 ^ up * den),
      ← Int.natAbs_mul]
    congr 1
    have := congrArg (Nat.cast (R := Int)) value
    simp only [truncated, Int.natAbs_natCast]
    push_cast at this ⊢
    linear_combination -this
  obtain exact | ⟨odd, near⟩ := forceBitZero_error a b_pos
  · left
    rw [truncated, exact, Nat.zero_mul] at scaled
    exact (Nat.mul_eq_zero.mp scaled).resolve_right b_pos.ne'
  · refine .inr ⟨odd, Nat.lt_of_mul_lt_mul_right (a := b) ?_⟩
    rw [scaled, Nat.mul_comm _ b]
    exact Nat.mul_lt_mul_of_pos_right near (by positivity)

end Truncated

/-- What holds of a product or quotient `r` of two numbers that are not zero, whose exact value is
`num / den`. -/
def Truncates (p : Precision) (num : Int) (den : Nat) (r : FloatResult) : Prop :=
  ∃ x n, r = Rounded.finish p x ∧ num = signFactor x.s * (n : Nat) ∧
    x.Represents p (2 ^ (511 + mantissaBits p)) n den ∧
    (x.error n den = 0 ∨ x.m % 2 = 1 ∧ x.error n den < 2 ^ x.up * den)

theorem truncates_of_value {p : Precision} {s : Bool} {up down a b n den : Nat} (b_pos : 0 < b)
    (den_pos : 0 < den) (value : n * 2 ^ down * b = a * 2 ^ up * den)
    (low : 2 ^ (mantissaBits p - 1) * b ≤ a) (high : a < 2 ^ mantissaBits p * b) :
    Truncates p (signFactor s * n) den ((truncated s up down a b).finish p) :=
  ⟨_, n, rfl, rfl, truncated_represents b_pos den_pos value s low high,
    truncated_error b_pos den_pos value s⟩

theorem signFactor_xor (s t : Bool) : signFactor (xor s t) = signFactor s * signFactor t := by
  cases s <;> cases t <;> rfl

theorem floatScale_eq (p : Precision) : floatScale p = 2 ^ 256 * 2 ^ mantissaBits p :=
  Nat.pow_add ..

/-- A product of two full mantissas has its leading bit in one of two places, and the exponent follows
(R333). -/
theorem fmul_truncates {p : Precision} {a b : Nat} {ua ub : Unpacked} (ha : unpack p a = some ua)
    (hb : unpack p b = some ub) :
    Truncates p (scaledValue p a * scaledValue p b) (floatScale p) (fmul p a b) := by
  obtain ⟨-, -, lowA, highA⟩ := normal_of_unpack ha
  obtain ⟨-, -, lowB, highB⟩ := normal_of_unpack hb
  obtain ⟨k, bits⟩ : ∃ k, mantissaBits p = k + 1 :=
    ⟨_, (Nat.succ_pred (mantissaBits_pos p).ne').symm⟩
  have value : scaledValue p a * scaledValue p b =
      signFactor (xor ua.s ub.s) * (ua.magnitude * ub.magnitude : Nat) := by
    rw [scaledValue_of_unpack ha, scaledValue_of_unpack hb, signFactor_xor]
    push_cast
    ring
  have scale : 0 < floatScale p := Nat.two_pow_pos _
  simp only [bits, Nat.add_sub_cancel] at lowA lowB highA highB
  have low : 2 ^ k * 2 ^ k ≤ ua.m * ub.m := Nat.mul_le_mul lowA lowB
  have high : ua.m * ub.m < 2 ^ (k + 1) * 2 ^ (k + 1) := Nat.mul_lt_mul'' highA highB
  have leading : (ua.m * ub.m).testBit (2 * (k + 1) - 1) =
      decide (2 ^ k * 2 ^ (k + 1) ≤ ua.m * ub.m) := by
    rw [testBit_top (by rw [← Nat.pow_add] at high; convert high using 2; omega), ← Nat.pow_add]
    congr 3
    omega
  rw [fmul, ha, hb, value]
  simp only [bits, leading, Nat.add_sub_cancel, decide_eq_true_eq]
  split
  case isTrue above =>
    refine truncates_of_value (up := ua.e + ub.e) (down := 256) (by positivity) scale ?_ ?_ ?_
    · rw [Unpacked.magnitude, Unpacked.magnitude, floatScale_eq, bits]
      generalize (2 : Nat) ^ 256 = bias
      ring
    · simpa only [bits, Nat.add_sub_cancel] using above
    · simpa only [bits] using high
  case isFalse below =>
    refine truncates_of_value (up := ua.e + ub.e) (down := 256 + 1) (by positivity) scale ?_ ?_ ?_
    · rw [Unpacked.magnitude, Unpacked.magnitude, floatScale_eq, bits, Nat.pow_add 2 256 1]
      generalize (2 : Nat) ^ 256 = bias
      ring
    · simpa only [bits, Nat.add_sub_cancel] using low
    · rw [bits, Nat.mul_comm (2 ^ _)]; exact not_le.mp below

/-- A quotient of two full mantissas lies between one half and two, and the exponent follows (R334). -/
theorem fdiv_truncates {p : Precision} {a b : Nat} {ua ub : Unpacked} (ha : unpack p a = some ua)
    (hb : unpack p b = some ub) :
    Truncates p (scaledValue p a * floatScale p * (scaledValue p b).sign) (scaledValue p b).natAbs
      (fdiv p a b) := by
  obtain ⟨-, -, lowA, highA⟩ := normal_of_unpack ha
  have normalB := normal_of_unpack hb
  have positiveB := normalB.magnitude_pos
  obtain ⟨-, -, lowB, highB⟩ := normalB
  obtain ⟨k, bits⟩ : ∃ k, mantissaBits p = k + 1 :=
    ⟨_, (Nat.succ_pred (mantissaBits_pos p).ne').symm⟩
  have den : (scaledValue p b).natAbs = ub.magnitude := by
    rw [scaledValue_of_unpack hb, signFactor_mul_natAbs]
  have sign : (scaledValue p b).sign = signFactor ub.s := by
    rw [scaledValue_of_unpack hb, Int.sign_mul, Int.sign_natCast_of_ne_zero positiveB.ne', mul_one]
    cases ub.s <;> rfl
  have value : scaledValue p a * floatScale p * (scaledValue p b).sign =
      signFactor (xor ua.s ub.s) * (ua.magnitude * floatScale p : Nat) := by
    rw [sign, scaledValue_of_unpack ha, signFactor_xor]
    push_cast
    ring
  simp only [bits, Nat.add_sub_cancel] at lowA lowB highA highB
  have positive : 0 < ub.m := lt_of_lt_of_le (by positivity) lowB
  rw [fdiv, ha, hb, value, den]
  simp only [bits, Nat.add_sub_cancel, sub_add_eq_add_sub]
  split
  case isTrue above =>
    refine truncates_of_value (up := ua.e + (256 + 1)) (down := ub.e) positive positiveB ?_ ?_ ?_
    · rw [Unpacked.magnitude, Unpacked.magnitude, floatScale_eq, bits, Nat.pow_add 2 ua.e (256 + 1),
        Nat.pow_add 2 256 1]
      generalize (2 : Nat) ^ 256 = bias
      ring
    · rw [bits, Nat.add_sub_cancel, Nat.mul_comm]
      exact Nat.mul_le_mul_right _ above
    · rw [bits, Nat.pow_succ, Nat.mul_comm ua.m, Nat.mul_assoc]
      exact Nat.mul_lt_mul_of_pos_left (by omega) (by positivity)
  case isFalse below =>
    refine truncates_of_value (up := ua.e + 256) (down := ub.e) positive positiveB ?_ ?_ ?_
    · rw [Unpacked.magnitude, Unpacked.magnitude, floatScale_eq, bits, Nat.pow_add 2 ua.e]
      generalize (2 : Nat) ^ 256 = bias
      ring
    · rw [bits, Nat.add_sub_cancel, Nat.pow_succ, Nat.mul_comm ua.m, Nat.mul_assoc]
      exact Nat.mul_le_mul_left _ (by omega)
    · rw [bits, Nat.mul_comm]
      exact Nat.mul_lt_mul_of_pos_left (not_le.mp below) (by positivity)

end Sys2Proof.Machine
end

section
/-! PROOFS. Floating sums and differences (43_floating_numerics.md R328 to R332): alignment with two guard
bits, physical addition and physical subtraction. -/

namespace Sys2Proof.Machine

namespace Unpacked.Normal

variable {p : Precision} {u : Unpacked} (h : u.Normal p)

include h in
/-- No number is below the least one, of exponent 1. -/
theorem least_le_magnitude : 2 ^ mantissaBits p ≤ u.magnitude := by
  have exponent : 2 ^ 1 ≤ 2 ^ u.e := Nat.pow_le_pow_right (by decide) h.one_le
  calc 2 ^ mantissaBits p
      = 2 ^ (mantissaBits p - 1) * 2 ^ 1 := (Nat.pow_pred_mul (mantissaBits_pos p)).symm
    _ ≤ u.magnitude := Nat.mul_le_mul h.low exponent

include h in
/-- The magnitude in an exponent of at most k + 1, as a quarter of units of 2^k. -/
theorem magnitude_le {k : Nat} (below : u.e ≤ k + 1) :
    4 * u.magnitude ≤ (16 * 2 ^ (mantissaBits p - 1) - 8) * 2 ^ k := by
  have high := h.high
  rw [two_pow_mantissaBits] at high
  calc 4 * u.magnitude
      = 4 * u.m * 2 ^ u.e := (Nat.mul_assoc ..).symm
    _ ≤ 4 * u.m * 2 ^ (k + 1) := Nat.mul_le_mul_left _ (Nat.pow_le_pow_right (by decide) below)
    _ = 8 * u.m * 2 ^ k := by ring
    _ ≤ _ := Nat.mul_le_mul_right _ (by omega)

end Unpacked.Normal

/-! ## Alignment -/

/-- The magnitude of l is not below that of s, which is what the (e, M) pairs are compared for (R329). -/
def Larger (l s : Unpacked) : Prop :=
  s.e < l.e ∨ s.e = l.e ∧ s.m ≤ l.m

theorem smaller_iff_not_larger {a b : Unpacked} : smaller a b = true ↔ ¬Larger a b := by
  simp only [smaller, Larger, Bool.or_eq_true, Bool.and_eq_true, decide_eq_true_eq]
  omega

theorem Larger.exponent_le {l s : Unpacked} (h : Larger l s) : s.e ≤ l.e := by
  rw [Larger] at h
  omega

/-- Four times the smaller magnitude, in units of the larger exponent, is what the alignment keeps, less
than one unit above it (R329). -/
theorem alignedSmall_bounds {l s : Unpacked} (h : s.e ≤ l.e) :
    alignedSmall l s * 2 ^ l.e ≤ 4 * s.magnitude ∧
      4 * s.magnitude < (alignedSmall l s + 1) * 2 ^ l.e := by
  have shift : 2 ^ l.e = 2 ^ (l.e - s.e) * 2 ^ s.e := by rw [← Nat.pow_add, Nat.sub_add_cancel h]
  have four : 4 * s.magnitude = s.m * 4 * 2 ^ s.e := by rw [Unpacked.magnitude]; ring
  rw [shift, four, alignedSmall, ← Nat.mul_assoc, ← Nat.mul_assoc]
  exact ⟨Nat.mul_le_mul_right _ (Nat.div_mul_le_self ..),
    Nat.mul_lt_mul_of_pos_right (Nat.lt_mul_of_div_lt (Nat.lt_succ_self _) (by positivity))
      (by positivity)⟩

/-- An alignment of at most two places drops nothing: the guard bits hold what is shifted out. -/
theorem alignedSmall_exact {l s : Unpacked} (h : s.e ≤ l.e) (near : l.e ≤ s.e + 2) :
    alignedSmall l s * 2 ^ l.e = 4 * s.magnitude := by
  have shift : 2 ^ l.e = 2 ^ (l.e - s.e) * 2 ^ s.e := by rw [← Nat.pow_add, Nat.sub_add_cancel h]
  have divides : 2 ^ (l.e - s.e) ∣ s.m * 4 :=
    Dvd.dvd.mul_left (Nat.pow_dvd_pow 2 (n := 2) (by omega)) _
  rw [shift, alignedSmall, ← Nat.mul_assoc, Nat.div_mul_cancel divides, Unpacked.magnitude]
  ring

/-- An alignment of three places or more leaves at most a quarter of the least mantissa's four. -/
theorem alignedSmall_far {p : Precision} {l s : Unpacked} (hs : s.m < 2 ^ mantissaBits p)
    (far : s.e + 3 ≤ l.e) : alignedSmall l s ≤ 2 ^ (mantissaBits p - 1) := by
  have double := two_pow_mantissaBits p
  calc alignedSmall l s
      ≤ s.m * 4 / 2 ^ 3 :=
        Nat.div_le_div_left (Nat.pow_le_pow_right (by decide) (by omega)) (by decide)
    _ ≤ 2 ^ (mantissaBits p - 1) := by omega

theorem alignedSmall_le {l s : Unpacked} (h : Larger l s) {p : Precision} (hl : l.Normal p)
    (hs : s.Normal p) : alignedSmall l s ≤ 4 * l.m := by
  have double := two_pow_mantissaBits p
  have lowL := hl.low
  have highS := hs.high
  rw [alignedSmall]
  obtain below | ⟨same, order⟩ := h
  · calc s.m * 4 / 2 ^ (l.e - s.e)
        ≤ s.m * 4 / 2 ^ 1 :=
          Nat.div_le_div_left (Nat.pow_le_pow_right (by decide) (by omega)) (by decide)
      _ ≤ 4 * l.m := by omega
  · rw [same, Nat.sub_self, Nat.pow_zero, Nat.div_one]
    omega

theorem magnitude_lt {l s : Unpacked} (h : Larger l s) {p : Precision} (hl : l.Normal p)
    (hs : s.Normal p) (different : ¬(l.e = s.e ∧ l.m = s.m)) : s.magnitude < l.magnitude := by
  obtain below | ⟨same, order⟩ := h
  · calc s.magnitude
        < 2 ^ mantissaBits p * 2 ^ s.e := hs.magnitude_bounds.2
      _ = 2 ^ (mantissaBits p - 1) * 2 ^ (s.e + 1) := by rw [two_pow_mantissaBits]; ring
      _ ≤ 2 ^ (mantissaBits p - 1) * 2 ^ l.e :=
        Nat.mul_le_mul_left _ (Nat.pow_le_pow_right (by decide) below)
      _ ≤ l.magnitude := hl.magnitude_bounds.1
  · rw [Unpacked.magnitude, Unpacked.magnitude, same]
    exact Nat.mul_lt_mul_of_pos_right (by omega) (by positivity)

/-! ## Sums and differences -/

/-- The least magnitude that overflows a sum or difference is half a unit of the greatest exponent, k + 1,
below the 2^p units that need exponent k + 2 (R330, R336). -/
theorem sumLimit_le_iff (p : Precision) (k n : Nat) :
    (2 ^ (k + 1 + mantissaBits p) - 2 ^ k) * 1 ≤ n ↔
      (16 * 2 ^ (mantissaBits p - 1) - 4) * 2 ^ k ≤ 4 * n := by
  have top : 2 ^ (k + 1 + mantissaBits p) = 4 * (2 ^ (mantissaBits p - 1) * 2 ^ k) := by
    rw [Nat.pow_add, two_pow_mantissaBits]
    ring
  rw [Nat.mul_one, top, Nat.sub_mul, Nat.mul_assoc 16]
  omega

theorem two_pow_lead (p : Precision) :
    2 ^ (mantissaBits p + 1) = 4 * 2 ^ (mantissaBits p - 1) := by
  rw [Nat.pow_add, two_pow_mantissaBits]
  ring

theorem two_pow_carry (p : Precision) :
    2 ^ (mantissaBits p + 2) = 8 * 2 ^ (mantissaBits p - 1) := by
  rw [Nat.pow_add, two_pow_mantissaBits]
  ring

theorem sumLimit_pos (p : Precision) (k : Nat) : 0 < (2 ^ (k + 1 + mantissaBits p) - 2 ^ k) * 1 := by
  rw [Nat.mul_one]
  exact Nat.sub_pos_of_lt (Nat.pow_lt_pow_right (by decide) (by omega))

/-- A number of exponent k + 1 is below the limit. -/
theorem Unpacked.Normal.below_sumLimit {p : Precision} {u : Unpacked} (h : u.Normal p) {k n : Nat}
    (exponent : u.e ≤ k + 1) (bound : n ≤ u.magnitude) :
    ¬(2 ^ (k + 1 + mantissaBits p) - 2 ^ k) * 1 ≤ n := by
  have greatest := h.magnitude_le exponent
  have positive : 0 < 2 ^ (mantissaBits p - 1) := by positivity
  have limit : (16 * 2 ^ (mantissaBits p - 1) - 8) * 2 ^ k <
      (16 * 2 ^ (mantissaBits p - 1) - 4) * 2 ^ k :=
    Nat.mul_lt_mul_of_pos_right (by omega) (by positivity)
  rw [sumLimit_le_iff]
  omega

/-- What holds of a sum or difference `r` whose exact value is `num`, not zero. -/
def RoundsTo (p : Precision) (num : Int) (r : FloatResult) : Prop :=
  ∃ x n, r = Rounded.finish p x ∧ num = signFactor x.s * (n : Nat) ∧
    x.Represents p (2 ^ (511 + mantissaBits p) - 2 ^ 510) n 1 ∧ 2 * x.error n 1 ≤ 2 ^ x.up

/-- Within half a unit, counted in quarters of a unit as the guard bits count. -/
theorem error_le_half {x : Rounded} {n : Nat}
    (low : 4 * x.m * 2 ^ x.up ≤ 4 * n * 2 ^ x.down + 2 * 2 ^ x.up)
    (high : 4 * n * 2 ^ x.down ≤ 4 * x.m * 2 ^ x.up + 2 * 2 ^ x.up) :
    2 * x.error n 1 ≤ 2 ^ x.up := by
  rw [Rounded.error, Nat.mul_one]
  rw [Nat.mul_assoc 4, Nat.mul_assoc 4] at low high
  omega

theorem finish_whole (p : Precision) (s : Bool) (e m : Nat) :
    Rounded.finish p ⟨s, e, 0, m⟩ = Machine.finish p s e m := by
  rw [Rounded.finish, Nat.cast_zero, sub_zero]

section Physical

variable {p : Precision} {l s : Unpacked} (hl : l.Normal p) (hs : s.Normal p) (order : Larger l s)

/-- P, the unrounded sum (R330). -/
def rawSum (l s : Unpacked) : Nat :=
  l.m * 4 + alignedSmall l s

include order in
/-- The unrounded sum, in quarters of a unit of the larger exponent, is less than one quarter short. -/
theorem rawSum_bounds :
    rawSum l s * 2 ^ l.e ≤ 4 * (l.magnitude + s.magnitude) ∧
      4 * (l.magnitude + s.magnitude) < (rawSum l s + 1) * 2 ^ l.e := by
  obtain ⟨low, high⟩ := alignedSmall_bounds order.exponent_le
  rw [rawSum, Unpacked.magnitude]
  constructor <;> linarith

/-- A physical addition adds half a unit of the place that becomes the last one, and drops what is below
(R330). -/
def roundedSum (p : Precision) (l s : Unpacked) : Rounded :=
  if 2 ^ (mantissaBits p + 2) ≤ rawSum l s + 2 then ⟨l.s, l.e + 1, 0, (rawSum l s + 4) / 8⟩
  else ⟨l.s, l.e, 0, (rawSum l s + 2) / 4⟩

include hl hs order in
theorem rawSum_lt : rawSum l s < 16 * 2 ^ (mantissaBits p - 1) - 7 := by
  have aligned := alignedSmall_le order hl hs
  have highL := hl.high
  rw [two_pow_mantissaBits] at highL
  rw [rawSum]
  omega

include hl hs order in
theorem physAdd_eq : physAdd p l s = (roundedSum p l s).finish p := by
  have bound := rawSum_lt hl hs order
  have top : ∀ {n : Nat}, n < 16 * 2 ^ (mantissaBits p - 1) →
      n.testBit (mantissaBits p + 2) = decide (8 * 2 ^ (mantissaBits p - 1) ≤ n) := fun small => by
    rw [testBit_top (by rw [Nat.pow_succ, two_pow_carry]; omega), two_pow_carry]
  have half : (rawSum l s).testBit 1 = decide (2 ≤ rawSum l s % 4) := by
    rw [Nat.testBit_eq_decide_div_mod_eq]
    exact decide_eq_decide.mpr (by omega)
  rw [physAdd, ← rawSum, roundedSum, two_pow_carry]
  simp only [half, decide_eq_true_eq]
  rw [top (by omega), top (by split <;> omega)]
  simp only [decide_eq_true_eq]
  by_cases carried : 8 * 2 ^ (mantissaBits p - 1) ≤ rawSum l s
  · rw [if_pos carried, if_pos (by omega), finish_whole, Nat.cast_succ]
  · rw [if_neg carried]
    by_cases rounds : 8 * 2 ^ (mantissaBits p - 1) ≤ rawSum l s + 2
    · rw [if_pos (by omega : 2 ≤ rawSum l s % 4), if_pos (by omega), if_pos rounds, finish_whole,
        Nat.cast_succ]
    · have same : (if 2 ≤ rawSum l s % 4 then rawSum l s + 4 else rawSum l s) / 4 =
          (rawSum l s + 2) / 4 := by
        split <;> omega
      rw [same, if_neg (by split <;> omega), if_neg rounds, finish_whole]

include order in
theorem roundedSum_error :
    2 * (roundedSum p l s).error (l.magnitude + s.magnitude) 1 ≤ 2 ^ (roundedSum p l s).up := by
  obtain ⟨low, high⟩ := rawSum_bounds order
  rw [roundedSum]
  split
  · have below := Nat.mul_le_mul_right (2 ^ l.e)
      (by omega : 8 * ((rawSum l s + 4) / 8) ≤ rawSum l s + 4)
    have above := Nat.mul_le_mul_right (2 ^ l.e)
      (by omega : rawSum l s + 1 ≤ 8 * ((rawSum l s + 4) / 8) + 4)
    apply error_le_half <;> simp only [Nat.pow_succ, Nat.pow_zero] <;> linarith
  · have below := Nat.mul_le_mul_right (2 ^ l.e)
      (by omega : 4 * ((rawSum l s + 2) / 4) ≤ rawSum l s + 2)
    have above := Nat.mul_le_mul_right (2 ^ l.e)
      (by omega : rawSum l s + 1 ≤ 4 * ((rawSum l s + 2) / 4) + 2)
    apply error_le_half <;> simp only [Nat.pow_zero] <;> linarith

include hl hs order in
/-- The rounded sum has an exponent above k + 1 exactly when the sum reaches the limit: from exponent k + 1
by the carry, from a lower one never. -/
theorem roundedSum_overflow {k : Nat} (le_top : l.e ≤ k + 1) :
    k + 1 < (roundedSum p l s).up ↔
      (16 * 2 ^ (mantissaBits p - 1) - 4) * 2 ^ k ≤ 4 * (l.magnitude + s.magnitude) := by
  obtain ⟨low, high⟩ := rawSum_bounds order
  have raw_high := rawSum_lt hl hs order
  obtain top | below : l.e = k + 1 ∨ l.e ≤ k := by omega
  · have up : k + 1 < (roundedSum p l s).up ↔ 8 * 2 ^ (mantissaBits p - 1) ≤ rawSum l s + 2 := by
      rw [roundedSum, two_pow_carry]
      split <;> simp only [top] <;> omega
    have limit : (16 * 2 ^ (mantissaBits p - 1) - 4) * 2 ^ k =
        (8 * 2 ^ (mantissaBits p - 1) - 2) * 2 ^ l.e := by
      rw [top, Nat.pow_succ, Nat.mul_comm (2 ^ k) 2, ← Nat.mul_assoc, Nat.sub_mul _ _ 2]
      congr 2
      omega
    rw [up, limit]
    constructor
    · intro reached
      exact (Nat.mul_le_mul_right _ (by omega)).trans low
    · intro reached
      have := Nat.lt_of_mul_lt_mul_right (reached.trans_lt high)
      omega
  · refine iff_of_false ?_ (not_le.mpr ?_)
    · rw [roundedSum]
      split <;> simp only <;> omega
    · calc 4 * (l.magnitude + s.magnitude)
          < (rawSum l s + 1) * 2 ^ l.e := high
        _ ≤ (16 * 2 ^ (mantissaBits p - 1) - 4) * 2 ^ k :=
          Nat.mul_le_mul (by omega) (Nat.pow_le_pow_right (by decide) below)

include hl hs order in
theorem roundedSum_represents :
    (roundedSum p l s).Represents p (2 ^ (511 + mantissaBits p) - 2 ^ 510)
      (l.magnitude + s.magnitude) 1 := by
  have raw_high := rawSum_lt hl hs order
  have raw_low : 4 * 2 ^ (mantissaBits p - 1) ≤ rawSum l s := by
    have := hl.low
    rw [rawSum]
    omega
  have least : 2 ^ mantissaBits p * 1 ≤ l.magnitude + s.magnitude := by
    rw [Nat.mul_one]
    exact hl.least_le_magnitude.trans (Nat.le_add_right ..)
  refine ⟨?_, ?_, ?_, ?_, ?_⟩
  · rw [roundedSum, two_pow_carry]
    split <;> simp only <;> omega
  · rw [roundedSum, two_pow_carry, two_pow_mantissaBits]
    split <;> simp only <;> omega
  · exact Nat.lt_of_lt_of_le (by positivity) least
  · rw [sumLimit_le_iff p 510, ← roundedSum_overflow hl hs order hl.le_max]
    rw [roundedSum]
    split <;> simp only [Nat.zero_add]
  · have := hl.one_le
    rw [roundedSum]
    split <;> simp only <;> omega

include hl hs order in
/-- A physical addition delivers the rounded sum (R330). -/
theorem physAdd_roundsTo :
    RoundsTo p (signFactor l.s * (l.magnitude + s.magnitude : Nat)) (physAdd p l s) := by
  refine ⟨roundedSum p l s, l.magnitude + s.magnitude, physAdd_eq hl hs order, ?_,
    roundedSum_represents hl hs order, roundedSum_error order⟩
  rw [roundedSum]
  split <;> rfl

/-- The difference before normalisation (R331). -/
def rawDifference (l s : Unpacked) : Nat :=
  l.m * 4 - alignedSmall l s

/-- The places by which a difference is shifted left (R331). -/
def leftShift (p : Precision) (l s : Unpacked) : Nat :=
  mantissaBits p + 1 - (rawDifference l s).log2

/-- A difference is rounded up from three quarters, or shifted left and truncated (R331). -/
def roundedDifference (p : Precision) (l s : Unpacked) : Rounded :=
  ⟨l.s, l.e, leftShift p l s,
    if leftShift p l s = 0 then (rawDifference l s + 1) / 4
    else rawDifference l s * 2 ^ leftShift p l s / 4⟩

include order in
/-- The unrounded difference, in the same quarters, is less than one quarter in excess. -/
theorem rawDifference_bounds :
    4 * (l.magnitude - s.magnitude) ≤ rawDifference l s * 2 ^ l.e ∧
      rawDifference l s * 2 ^ l.e < 4 * (l.magnitude - s.magnitude) + 2 ^ l.e := by
  obtain ⟨low, high⟩ := alignedSmall_bounds order.exponent_le
  have four : l.m * 4 * 2 ^ l.e = 4 * l.magnitude := by rw [Unpacked.magnitude]; ring
  rw [Nat.add_mul, Nat.one_mul] at high
  rw [rawDifference, Nat.sub_mul, four]
  omega

include order in
theorem rawDifference_exact (near : l.e ≤ s.e + 2) :
    4 * (l.magnitude - s.magnitude) = rawDifference l s * 2 ^ l.e := by
  have four : l.m * 4 * 2 ^ l.e = 4 * l.magnitude := by rw [Unpacked.magnitude]; ring
  rw [rawDifference, Nat.sub_mul, alignedSmall_exact order.exponent_le near, four, Nat.mul_sub]

include hl hs in
/-- After an alignment of three places or more, a difference is shifted left by one place at most. -/
theorem leftShift_far (far : s.e + 3 ≤ l.e) :
    3 * 2 ^ (mantissaBits p - 1) ≤ rawDifference l s ∧ leftShift p l s ≤ 1 := by
  have aligned := alignedSmall_far hs.high far
  have low := hl.low
  have raw : 3 * 2 ^ (mantissaBits p - 1) ≤ rawDifference l s := by rw [rawDifference]; omega
  refine ⟨raw, ?_⟩
  have positive : 0 < 2 ^ (mantissaBits p - 1) := by positivity
  have leading : mantissaBits p ≤ (rawDifference l s).log2 := by
    rw [Nat.le_log2 (by omega), two_pow_mantissaBits]
    omega
  rw [leftShift]
  omega

include hl in
theorem rawDifference_le : rawDifference l s ≤ 8 * 2 ^ (mantissaBits p - 1) - 4 := by
  have high := hl.high
  rw [two_pow_mantissaBits] at high
  rw [rawDifference]
  omega

include hl hs order in
/-- The alignment dropped nothing, or the difference is shifted by one place at most and is a long way
above the least number. -/
theorem difference_exact_or_far :
    4 * (l.magnitude - s.magnitude) = rawDifference l s * 2 ^ l.e ∨
      leftShift p l s ≤ 1 ∧ 4 ≤ l.e ∧ 2 ^ mantissaBits p ≤ l.magnitude - s.magnitude := by
  by_cases near : l.e ≤ s.e + 2
  · exact .inl (rawDifference_exact order near)
  · have exponent := hs.one_le
    obtain ⟨raw, shift⟩ := leftShift_far hl hs (by omega)
    refine .inr ⟨shift, by omega, ?_⟩
    have above := (rawDifference_bounds order).2
    have unit : 2 ^ 4 ≤ 2 ^ l.e := Nat.pow_le_pow_right (by decide) (by omega)
    have positive : 0 < 2 ^ (mantissaBits p - 1) := by positivity
    have size : (3 * 2 ^ (mantissaBits p - 1) - 1) * 2 ^ 4 ≤ (rawDifference l s - 1) * 2 ^ l.e :=
      Nat.mul_le_mul (by omega) unit
    rw [Nat.sub_mul _ _ (2 ^ l.e), Nat.one_mul] at size
    rw [two_pow_mantissaBits]
    omega

include hl hs order in
theorem roundedDifference_error :
    2 * (roundedDifference p l s).error (l.magnitude - s.magnitude) 1 ≤
      2 ^ (roundedDifference p l s).up := by
  obtain ⟨low, high⟩ := rawDifference_bounds order
  rw [roundedDifference]
  by_cases whole : leftShift p l s = 0
  · have below := Nat.mul_le_mul_right (2 ^ l.e)
      (by omega : 4 * ((rawDifference l s + 1) / 4) ≤ rawDifference l s + 1)
    have above := Nat.mul_le_mul_right (2 ^ l.e)
      (by omega : rawDifference l s ≤ 4 * ((rawDifference l s + 1) / 4) + 2)
    apply error_le_half <;> simp only [whole, if_pos, Nat.pow_zero] <;> linarith
  · have even : 2 ∣ rawDifference l s * 2 ^ leftShift p l s := (dvd_pow_self 2 whole).mul_left _
    have below := Nat.mul_le_mul_right (2 ^ l.e)
      (Nat.mul_div_le (rawDifference l s * 2 ^ leftShift p l s) 4)
    have above := Nat.mul_le_mul_right (2 ^ l.e)
      (by omega : rawDifference l s * 2 ^ leftShift p l s ≤
        4 * (rawDifference l s * 2 ^ leftShift p l s / 4) + 2)
    have shifted := Nat.mul_le_mul_right (2 ^ leftShift p l s) low
    have dropped : rawDifference l s * 2 ^ leftShift p l s * 2 ^ l.e ≤
        4 * (l.magnitude - s.magnitude) * 2 ^ leftShift p l s + 2 * 2 ^ l.e := by
      obtain exact | ⟨shift, -, -⟩ := difference_exact_or_far hl hs order
      · rw [exact, Nat.mul_right_comm]
        exact Nat.le_add_right ..
      · have one : leftShift p l s = 1 := by omega
        rw [one]
        linarith
    apply error_le_half <;> simp only [whole, if_neg, not_false_eq_true] <;> linarith

section Nonzero

variable (less : s.magnitude < l.magnitude)

include order less in
theorem rawDifference_ne_zero : rawDifference l s ≠ 0 := by
  intro zero
  have := (rawDifference_bounds order).1
  rw [zero] at this
  omega

include hl order less in
/-- The left shift brings the leading bit to its place. -/
theorem leftShift_normal :
    4 * 2 ^ (mantissaBits p - 1) ≤ rawDifference l s * 2 ^ leftShift p l s ∧
      rawDifference l s * 2 ^ leftShift p l s < 8 * 2 ^ (mantissaBits p - 1) := by
  have nonzero := rawDifference_ne_zero order less
  have bound := rawDifference_le (s := s) hl
  have small : (rawDifference l s).log2 < mantissaBits p + 2 := by
    rw [Nat.log2_lt nonzero, two_pow_carry]
    have : 0 < 2 ^ (mantissaBits p - 1) := by positivity
    omega
  have place : (rawDifference l s).log2 + leftShift p l s = mantissaBits p + 1 := by
    rw [leftShift]
    omega
  constructor
  · rw [← two_pow_lead, ← place, Nat.pow_add]
    exact Nat.mul_le_mul_right _ (Nat.log2_self_le nonzero)
  · have next : mantissaBits p + 2 = (rawDifference l s).log2 + 1 + leftShift p l s := by omega
    rw [← two_pow_carry, next, Nat.pow_add]
    exact Nat.mul_lt_mul_of_pos_right Nat.lt_log2_self (by positivity)

include order less in
theorem leftShift_eq_zero_iff :
    leftShift p l s = 0 ↔ 4 * 2 ^ (mantissaBits p - 1) ≤ rawDifference l s := by
  rw [← two_pow_lead, ← Nat.le_log2 (rawDifference_ne_zero order less), leftShift]
  omega

include hl order less in
theorem physSub_eq : physSub p l s = (roundedDifference p l s).finish p := by
  have bound := rawDifference_le (s := s) hl
  have positive : 0 < 2 ^ (mantissaBits p - 1) := by positivity
  have top : (rawDifference l s).testBit (mantissaBits p + 1) = decide (leftShift p l s = 0) := by
    rw [testBit_top (by rw [two_pow_carry]; omega), two_pow_lead]
    exact decide_eq_decide.mpr (leftShift_eq_zero_iff order less).symm
  rw [physSub, ← rawDifference, roundedDifference]
  simp only [top, decide_eq_true_eq]
  by_cases whole : leftShift p l s = 0
  · have quarters : (if rawDifference l s % 4 = 3 then rawDifference l s / 4 + 1
        else rawDifference l s / 4) = (rawDifference l s + 1) / 4 := by
      split <;> omega
    rw [if_pos whole, if_pos whole, whole, finish_whole, quarters]
  · rw [if_neg whole, if_neg whole]
    rfl

include hl hs order less in
/-- The shift uses up the exponent exactly when the difference is below the least number (R337). -/
theorem leftShift_underflow :
    l.e ≤ leftShift p l s ↔ l.magnitude - s.magnitude < 2 ^ mantissaBits p := by
  obtain ⟨normal, bound⟩ := leftShift_normal hl order less
  obtain exact | ⟨shift, exponent, least⟩ := difference_exact_or_far hl hs order
  · have scaled : 4 * (l.magnitude - s.magnitude) * 2 ^ leftShift p l s =
        rawDifference l s * 2 ^ leftShift p l s * 2 ^ l.e := by
      rw [exact, Nat.mul_right_comm]
    rw [two_pow_mantissaBits]
    constructor
    · intro below
      have small : 4 * (l.magnitude - s.magnitude) < 8 * 2 ^ (mantissaBits p - 1) := by
        refine Nat.lt_of_mul_lt_mul_right (a := 2 ^ leftShift p l s) ?_
        rw [scaled]
        exact Nat.mul_lt_mul_of_lt_of_le bound (Nat.pow_le_pow_right (by decide) below)
          (by positivity)
      omega
    · intro small
      by_contra above
      have reached : 4 * 2 ^ (mantissaBits p - 1) * 2 ≤ 4 * (l.magnitude - s.magnitude) := by
        refine Nat.le_of_mul_le_mul_right (c := 2 ^ leftShift p l s) ?_ (by positivity)
        rw [scaled, Nat.mul_assoc _ 2, ← Nat.pow_succ']
        exact Nat.mul_le_mul normal (Nat.pow_le_pow_right (by decide) (by omega))
      omega
  · omega

include hl hs order less in
theorem roundedDifference_represents :
    (roundedDifference p l s).Represents p (2 ^ (511 + mantissaBits p) - 2 ^ 510)
      (l.magnitude - s.magnitude) 1 := by
  obtain ⟨low, high⟩ := rawDifference_bounds order
  obtain ⟨normal, bound⟩ := leftShift_normal hl order less
  have raw_le := rawDifference_le (s := s) hl
  refine ⟨?_, ?_, by omega, ?_, ?_⟩
  · rw [roundedDifference]
    split
    case isTrue whole =>
      rw [whole, Nat.pow_zero, Nat.mul_one] at normal
      simp only
      omega
    case isFalse => simp only; omega
  · rw [roundedDifference, two_pow_mantissaBits]
    split <;> simp only <;> omega
  · refine iff_of_false ?_ (hl.below_sumLimit (k := 510) hl.le_max (Nat.sub_le ..))
    have highest := hl.le_max
    simp only [roundedDifference]
    omega
  · rw [Nat.mul_one]
    exact leftShift_underflow hl hs order less

include hl hs order less in
/-- A physical subtraction delivers the rounded difference (R331). -/
theorem physSub_roundsTo :
    RoundsTo p (signFactor l.s * (l.magnitude - s.magnitude : Nat)) (physSub p l s) :=
  ⟨roundedDifference p l s, l.magnitude - s.magnitude, physSub_eq hl order less, rfl,
    roundedDifference_represents hl hs order less, roundedDifference_error hl hs order⟩

end Nonzero

end Physical

/-! ### The sum of two numbers -/

/-- The number, in the scale of `scaledValue`. -/
def Unpacked.value (u : Unpacked) : Int :=
  signFactor u.s * u.magnitude

/-- The sum of a number and one of no greater magnitude (R328, R332). -/
def addOrdered (p : Precision) (l s : Unpacked) : FloatResult :=
  if l.s = s.s then physAdd p l s
  else if l.e = s.e ∧ l.m = s.m then floatZero
  else physSub p l s

theorem addNonZero_of_larger (p : Precision) {a b : Unpacked} (h : Larger a b) :
    addNonZero p a b = addOrdered p a b := by
  have order : smaller a b = false :=
    Bool.eq_false_iff.mpr fun below => smaller_iff_not_larger.mp below h
  simp only [addNonZero, order, Bool.false_eq_true, if_false]
  rfl

theorem addNonZero_of_not_larger (p : Precision) {a b : Unpacked} (h : ¬Larger a b) :
    addNonZero p a b = addOrdered p b a := by
  have order : smaller a b = true := smaller_iff_not_larger.mpr h
  simp only [addNonZero, order, if_true, addOrdered]
  simp only [eq_comm]

theorem larger_of_not_larger {a b : Unpacked} (h : ¬Larger a b) : Larger b a := by
  rw [Larger] at *
  omega

/-- Of two numbers with the same (e, M) pair either may stand first (R329). -/
theorem addNonZero_comm (p : Precision) (a b : Unpacked) : addNonZero p a b = addNonZero p b a := by
  by_cases ab : Larger a b
  · by_cases ba : Larger b a
    · have exponents : a.e = b.e := by rw [Larger] at *; omega
      have mantissas : a.m = b.m := by rw [Larger] at *; omega
      rw [addNonZero_of_larger p ab, addNonZero_of_larger p ba, addOrdered, addOrdered]
      by_cases signs : a.s = b.s
      · obtain ⟨s, e, m⟩ := a
        cases signs
        cases exponents
        cases mantissas
        rfl
      · rw [if_neg signs, if_neg (Ne.symm signs), if_pos ⟨exponents, mantissas⟩,
          if_pos ⟨exponents.symm, mantissas.symm⟩]
    · rw [addNonZero_of_larger p ab, addNonZero_of_not_larger p ba]
  · rw [addNonZero_of_not_larger p ab, addNonZero_of_larger p (larger_of_not_larger ab)]

/-- What holds of every sum or difference `r` of exact value `num`: an exact zero is the zero word, any
other number is rounded (R332). -/
def Sums (p : Precision) (num : Int) (r : FloatResult) : Prop :=
  num = 0 ∧ r = floatZero ∨ RoundsTo p num r

section Sum

variable {p : Precision} {a b : Unpacked} (ha : a.Normal p) (hb : b.Normal p)

include ha hb in
theorem addOrdered_sums (order : Larger a b) : Sums p (a.value + b.value) (addOrdered p a b) := by
  rw [addOrdered, Unpacked.value, Unpacked.value]
  split
  case isTrue signs =>
    refine .inr ?_
    rw [← signs, ← Int.mul_add]
    exact physAdd_roundsTo ha hb order
  case isFalse signs =>
    have opposite : signFactor b.s = -signFactor a.s := by
      revert signs
      cases a.s <;> cases b.s <;> decide
    have value : signFactor a.s * a.magnitude + signFactor b.s * b.magnitude =
        signFactor a.s * (a.magnitude - b.magnitude) := by
      rw [opposite]
      ring
    rw [value]
    split
    case isTrue same =>
      refine .inl ⟨?_, rfl⟩
      rw [Unpacked.magnitude, Unpacked.magnitude, same.1, same.2, sub_self, mul_zero]
    case isFalse different =>
      have less := magnitude_lt order ha hb different
      rw [← Nat.cast_sub less.le]
      exact .inr (physSub_roundsTo ha hb order less)

include ha hb in
theorem addNonZero_sums : Sums p (a.value + b.value) (addNonZero p a b) := by
  by_cases order : Larger a b
  · rw [addNonZero_of_larger p order]
    exact addOrdered_sums ha hb order
  · rw [addNonZero_of_not_larger p order, add_comm]
    exact addOrdered_sums hb ha (larger_of_not_larger order)

include ha in
/-- A number packed as it is. -/
theorem pack_sums : Sums p a.value ⟨pack p a.s a.e a.m, .none⟩ := by
  have lowest := ha.one_le
  have highest := ha.le_max
  refine .inr ⟨⟨a.s, a.e, 0, a.m⟩, a.magnitude, ?_, rfl,
    ⟨ha.low, ha.high, ha.magnitude_pos, ?_, ?_⟩, ?_⟩
  · exact (finish_of_inside (x := ⟨a.s, a.e, 0, a.m⟩) p lowest (by simp only; omega)).symm
  · exact iff_of_false (by simp only; omega) (ha.below_sumLimit (k := 510) highest le_rfl)
  · have least := ha.least_le_magnitude
    exact iff_of_false (by simp only; omega) (by omega)
  · apply error_le_half <;> simp only [Unpacked.magnitude, Nat.pow_zero, ← Nat.mul_assoc] <;> omega

end Sum

/-- The exact result of a sum or difference (R328). -/
theorem sum_eq_add_signFactor (sb : Bool) (x y : Int) :
    (if sb then x - y else x + y) = x + signFactor sb * y := by
  cases sb <;> simp [signFactor, sub_eq_add_neg]

theorem scaledValue_eq_value {p : Precision} {w : Nat} {u : Unpacked} (h : unpack p w = some u) :
    scaledValue p w = u.value :=
  scaledValue_of_unpack h

theorem scaledValue_of_none {p : Precision} {w : Nat} (h : unpack p w = none) : scaledValue p w = 0 := by
  rw [scaledValue, h]

/-- addsub_p: a zero operand leaves the other one, with its sign changed as a subtrahend (R328, R332). -/
theorem addSub_sums (p : Precision) (sb : Bool) (a b : Nat) :
    Sums p (scaledValue p a + signFactor sb * scaledValue p b) (addSub p sb a b) := by
  have subtrahend : ∀ u : Unpacked,
      signFactor sb * u.value = Unpacked.value { u with s := xor u.s sb } := fun u => by
    rw [Unpacked.value, Unpacked.value, signFactor_xor, ← mul_assoc, mul_comm (signFactor sb)]
    rfl
  cases ha : unpack p a with
  | none => cases hb : unpack p b with
    | none =>
      refine .inl ⟨?_, by rw [addSub, ha, hb]⟩
      rw [scaledValue_of_none ha, scaledValue_of_none hb, mul_zero, add_zero]
    | some ub =>
      obtain ⟨lowest, highest, low, high⟩ := normal_of_unpack hb
      rw [addSub, ha, hb, scaledValue_of_none ha, scaledValue_eq_value hb, zero_add, subtrahend]
      exact pack_sums ⟨lowest, highest, low, high⟩
  | some ua =>
    have normalA := normal_of_unpack ha
    cases hb : unpack p b with
    | none =>
      rw [addSub, ha, hb, scaledValue_eq_value ha, scaledValue_of_none hb, mul_zero, add_zero]
      exact pack_sums normalA
    | some ub =>
      obtain ⟨lowest, highest, low, high⟩ := normal_of_unpack hb
      rw [addSub, ha, hb, scaledValue_eq_value ha, scaledValue_eq_value hb, subtrahend]
      exact addNonZero_sums normalA ⟨lowest, highest, low, high⟩

end Sys2Proof.Machine
end

section
/-! PROOFS. The statements of 43_floating_numerics.md R328 to R338, from sums and differences that round
and products and quotients that truncate. -/

namespace Sys2Proof.Machine

/-! ## The obligations -/

/-- Settles O51: the half unit of the rounded number is that of the delivered word. -/
theorem floatAddNearest : Obligations.FloatAddNearest := by
  intro p sb a b r exact
  have sums : Sums p exact r := by
    have value : exact = scaledValue p a + signFactor sb * scaledValue p b :=
      sum_eq_add_signFactor sb ..
    rw [value]
    exact addSub_sums p sb a b
  obtain ⟨zero, result⟩ | ⟨x, n, result, value, represents, half⟩ := sums
  · rw [zero, result]
    exact ⟨fun _ => by cases p <;> decide, fun _ => rfl⟩
  · rw [result, value]
    refine ⟨fun quiet => ?_, fun zero =>
      absurd (signFactor_mul_eq_zero.mp zero) represents.positive.ne'⟩
    obtain ⟨unit, -, -⟩ := represents.delivered quiet
    have error := represents.error_delivered quiet
    rw [Nat.cast_one, mul_one] at error
    refine Nat.le_of_mul_le_mul_right (c := 2 ^ x.down) ?_ (by positivity)
    rw [unit, Nat.mul_assoc, error]
    exact half

/-- Settles O52: the sum of two numbers does not look at their order, and a zero operand leaves the other
one packed as it was. -/
theorem floatAddZero : Obligations.FloatAddZero := by
  intro p a b smallA smallB
  cases ha : unpack p a with
  | none => cases hb : unpack p b with
    | none => simp [fadd, fsub, addSub, ha, hb, floatZero]
    | some ub =>
      have packed := pack_unpack smallB hb
      have negated := pack_not (normal_of_unpack hb)
      rw [packed] at negated
      simp [fadd, fsub, addSub, ha, hb, packed, negated]
  | some ua => cases hb : unpack p b with
    | none =>
      have packed := pack_unpack smallA ha
      simp [fadd, fsub, addSub, ha, hb, packed]
    | some ub => simp [fadd, addSub, ha, hb, addNonZero_comm p ua ub]

/-- The error of a product or quotient that was delivered (R333, R334). -/
theorem Truncates.error {p : Precision} {num : Int} {den : Nat} {r : FloatResult}
    (h : Truncates p num den r) (quiet : r.event = .none) :
    scaledValue p r.bits * den = num ∨
      r.bits % 2 = 1 ∧
        (scaledValue p r.bits * den - num).natAbs < 2 ^ exponentField p r.bits * den := by
  obtain ⟨x, n, rfl, rfl, represents, near⟩ := h
  obtain ⟨unit, -, parity⟩ := represents.delivered quiet
  have error := represents.error_delivered quiet
  rw [parity]
  obtain exact | ⟨odd, below⟩ := near
  · left
    rw [exact, Nat.mul_eq_zero, Int.natAbs_eq_zero] at error
    exact sub_eq_zero.mp (error.resolve_right (by positivity))
  · refine .inr ⟨odd, Nat.lt_of_mul_lt_mul_right (a := 2 ^ x.down) ?_⟩
    rw [error, Nat.mul_right_comm, unit]
    exact below

theorem scaledValue_ne_zero {p : Precision} {w : Nat} {u : Unpacked} (h : unpack p w = some u) :
    scaledValue p w ≠ 0 := by
  rw [scaledValue_of_unpack h]
  exact signFactor_mul_eq_zero.not.mpr (normal_of_unpack h).magnitude_pos.ne'

theorem Sums.forced {p : Precision} {num : Int} {r : FloatResult} (h : Sums p num r) :
    Forced p (2 ^ (511 + mantissaBits p) - 2 ^ 510) num 1 r := by
  obtain ⟨rfl, rfl⟩ | ⟨x, n, rfl, rfl, represents, -⟩ := h
  · exact forced_floatZero p (sumLimit_pos p 510)
  · exact represents.forced

theorem Truncates.forced {p : Precision} {num : Int} {den : Nat} {r : FloatResult}
    (h : Truncates p num den r) : Forced p (2 ^ (511 + mantissaBits p)) num den r := by
  obtain ⟨x, n, rfl, rfl, represents, -⟩ := h
  exact represents.forced

/-- A product with a zero operand is zero (R332, R338). -/
theorem fmul_forced (p : Precision) (a b : Nat) :
    Forced p (2 ^ (511 + mantissaBits p)) (scaledValue p a * scaledValue p b) (floatScale p)
      (fmul p a b) := by
  have reach : 0 < 2 ^ (511 + mantissaBits p) * floatScale p :=
    Nat.mul_pos (Nat.two_pow_pos _) (Nat.two_pow_pos _)
  cases ha : unpack p a with
  | none =>
    have zero : fmul p a b = floatZero := by simp only [fmul, ha]
    rw [scaledValue_of_none ha, zero_mul, zero]
    exact forced_floatZero p reach
  | some ua => cases hb : unpack p b with
    | none =>
      have zero : fmul p a b = floatZero := by simp only [fmul, ha, hb]
      rw [scaledValue_of_none hb, mul_zero, zero]
      exact forced_floatZero p reach
    | some ub => exact (fmul_truncates ha hb).forced

/-- A zero divided by a number is zero (R332). -/
theorem fdiv_forced (p : Precision) (a : Nat) {b : Nat} (divisor : unpack p b ≠ none) :
    Forced p (2 ^ (511 + mantissaBits p)) (scaledValue p a * floatScale p * (scaledValue p b).sign)
      (scaledValue p b).natAbs (fdiv p a b) := by
  obtain ⟨ub, hb⟩ := Option.ne_none_iff_exists'.mp divisor
  cases ha : unpack p a with
  | none =>
    have zero : fdiv p a b = floatZero := by simp only [fdiv, ha, hb]
    rw [scaledValue_of_none ha, zero_mul, zero_mul, zero]
    exact forced_floatZero p
      (Nat.mul_pos (Nat.two_pow_pos _) (Int.natAbs_pos.mpr (scaledValue_ne_zero hb)))
  | some ua => exact (fdiv_truncates ha hb).forced

/-- Settles O53: of a quotient the error is taken with the sign of the divisor. -/
theorem floatMulDivAccuracy : Obligations.FloatMulDivAccuracy := by
  intro p a b nonzeroA nonzeroB va vb product quotient
  obtain ⟨ua, ha⟩ := Option.ne_none_iff_exists'.mp nonzeroA
  obtain ⟨ub, hb⟩ := Option.ne_none_iff_exists'.mp nonzeroB
  refine ⟨(fmul_truncates ha hb).error, fun quiet => ?_⟩
  have nonzero : vb ≠ 0 := scaledValue_ne_zero hb
  have signed : scaledValue p quotient.bits * vb.natAbs - va * floatScale p * vb.sign =
      (scaledValue p quotient.bits * vb - va * floatScale p) * vb.sign := by
    rw [← Int.mul_sign_self, ← mul_assoc, ← sub_mul]
  obtain exact | ⟨odd, near⟩ := (fdiv_truncates ha hb).error quiet
  · left
    rw [← sub_eq_zero, signed, mul_eq_zero, Int.sign_eq_zero_iff_zero] at exact
    exact sub_eq_zero.mp (exact.resolve_right nonzero)
  · right
    rw [signed, Int.natAbs_mul, Int.natAbs_sign_of_ne_zero nonzero, Nat.mul_one] at near
    exact ⟨odd, near⟩

/-- Settles O54: each operation rounds or truncates a result that is not zero, and gives the zero word for
an exact zero. -/
theorem floatForced : Obligations.FloatForced := by
  intro op p a b divisor r num den
  have forced : Forced p (overflowLimit op p) num den r := by
    cases op with
    | add =>
      have sums := addSub_sums p false a b
      rw [← sum_eq_add_signFactor] at sums
      exact sums.forced
    | sub =>
      have sums := addSub_sums p true a b
      rw [← sum_eq_add_signFactor] at sums
      exact sums.forced
    | mul => exact fmul_forced p a b
    | div => exact fdiv_forced p a (divisor rfl)
  obtain ⟨word, overflow, underflow, greatest, zero, normal⟩ := forced
  exact ⟨word, overflow, underflow, greatest, zero, normal⟩

end Sys2Proof.Machine
end

section
/-! PROOFS. How the CPU stops (10_state.md R36, 60_exceptions.md R370 to R372, R377, R379): the run state
after each shared meaning, then after every instruction, and the steps that execute nothing. -/

namespace Sys2Proof.Machine

/-! ## Updates that leave the run state alone -/

@[simp] theorem setFD_run (s : State) (f : FReg) (v : DWord) : (s.setFD f v).run = s.run := by
  simp [State.setFD]

@[simp] theorem setTaintedFD_run (s : State) (f : FReg) (v : DWord) :
    (s.setTaintedFD f v).run = s.run := by
  simp [State.setTaintedFD]

@[simp] theorem setTaintedFreg_run (s : State) (p : Precision) (f : FReg) (v : Nat) :
    (s.setTaintedFreg p f v).run = s.run := by
  cases p with
  | single => simp [State.setTaintedFreg, State.setTaintedF]
  | double => simp [State.setTaintedFreg]

theorem store_run {s t : State} {a v : Word} (h : s.store a v = .ok t) : t.run = s.run := by
  obtain ⟨_, rfl⟩ := store_ok_iff.mp h
  rfl

theorem store2_run {s t : State} {a hi lo : Word} (h : s.store2 a hi lo = .ok t) :
    t.run = s.run := by
  obtain ⟨_, first, second⟩ := store2_ok_iff.mp h
  rw [store_run second, store_run first]

/-! ## The run state after an instruction -/

/-- The run state of `t` after the instruction `i`, other than EXC, has executed in `s`
(60_exceptions.md R371). -/
inductive RunAfter (i : Instr) (s t : State) : Prop
  | kept (run : t.run = s.run)
  | stop (code : BitVec 18) (stops : i = .stop code) (run : t.run = .stopped (.monitor code))
  | overflow (may : integerArithmetic i = true) (action : s.params.overflowAction = .monitorCall)
      (run : t.run = .stopped (.overflow s.pc))

section Updates

variable {i : Instr} {s t : State}

theorem yields_run_kept (run : t.run = s.run := by simp) : Yields (RunAfter i s) (.next t) :=
  yields_next (.kept run)

/-- The overflow monitor call comes last, after updates that leave the run state and the parameters alone
(60_exceptions.md R375). -/
theorem runAfter_overflowCall (may : integerArithmetic i = true) (o : Bool)
    (run : t.run = s.run := by simp) (params : t.params = s.params := by simp) :
    RunAfter i s (t.overflowCall s.pc o) := by
  obtain same | ⟨_, action, stops⟩ := overflowCall_cases t s.pc o
  · exact .kept (by rw [same, run])
  · exact .overflow may (params ▸ action) (by rw [stops])

theorem setInt_runAfter (may : integerArithmetic i = true) (r : Reg) (v : Int) :
    RunAfter i s (s.setInt r v) :=
  runAfter_overflowCall may _

theorem setProduct_runAfter (may : integerArithmetic i = true) (r : Reg) (v : Int) :
    RunAfter i s (s.setProduct r v) := by
  rw [setProduct_eq]
  exact runAfter_overflowCall may _

theorem setQuotient_runAfter (may : integerArithmetic i = true) (r : Reg) (n d : Word) :
    RunAfter i s (s.setQuotient r n d) := by
  rw [setQuotient_eq]
  exact runAfter_overflowCall may _

end Updates

/-! ### Memory reference instructions -/

section Memory

variable {i : Instr} (r : Reg) (m : MemRef) (s : State)

theorem execRtj_runAfter : Yields (RunAfter i s) (execRtj r m s) :=
  yields_bind fun _ _ => yields_run_kept

theorem jumpOn_runAfter (rl : Relation) : Yields (RunAfter i s) (jumpOn rl r m s) :=
  yields_bind fun _ _ => yields_run_kept

theorem modifyJump_runAfter (rl : Relation) (q : BitVec 4) (may : integerArithmetic i = true) :
    Yields (RunAfter i s) (modifyJump rl q m s) :=
  yields_bind fun _ _ => yields_next (runAfter_overflowCall may _)

theorem compareSkip_runAfter (rl : Relation) : Yields (RunAfter i s) (compareSkip rl r m s) :=
  yields_bind fun _ _ => yields_bind fun _ _ => yields_run_kept

theorem execMin_runAfter (may : integerArithmetic i = true) :
    Yields (RunAfter i s) (execMin r m s) :=
  yields_bind fun _ _ => yields_bind fun _ _ => yields_bind fun _ stored => yields_next
    (runAfter_overflowCall may _ (by simp [store_run stored])
      (by simp [(StoresTo.store stored).params]))

theorem execAdd_runAfter (may : integerArithmetic i = true) :
    Yields (RunAfter i s) (execAdd r m s) :=
  yields_bind fun _ _ => yields_bind fun _ _ => yields_next (setInt_runAfter may ..)

theorem execSub_runAfter (may : integerArithmetic i = true) :
    Yields (RunAfter i s) (execSub r m s) :=
  yields_bind fun _ _ => yields_bind fun _ _ => yields_next (setInt_runAfter may ..)

theorem execAnd_runAfter : Yields (RunAfter i s) (execAnd r m s) :=
  yields_bind fun _ _ => yields_bind fun _ _ => yields_run_kept

theorem execLdr_runAfter : Yields (RunAfter i s) (execLdr r m s) :=
  yields_bind fun _ _ => yields_bind fun _ _ => yields_run_kept

theorem execAdm_runAfter (may : integerArithmetic i = true) :
    Yields (RunAfter i s) (execAdm r m s) :=
  yields_bind fun _ _ => yields_bind fun _ _ => yields_bind fun _ stored => yields_next
    (runAfter_overflowCall may _ (by simp [store_run stored])
      (by simp [(StoresTo.store stored).params]))

theorem execXmr_runAfter : Yields (RunAfter i s) (execXmr r m s) :=
  yields_bind fun _ _ => yields_bind fun _ _ => yields_bind fun _ stored =>
    yields_run_kept (by simp [store_run stored])

theorem execStr_runAfter : Yields (RunAfter i s) (execStr r m s) :=
  yields_bind fun _ _ => yields_bind fun _ stored => yields_run_kept (by simp [store_run stored])

theorem execMpy_runAfter (may : integerArithmetic i = true) :
    Yields (RunAfter i s) (execMpy r m s) :=
  yields_bind fun _ _ => yields_bind fun _ _ => yields_next (setProduct_runAfter may ..)

theorem execDiv_runAfter (may : integerArithmetic i = true) :
    Yields (RunAfter i s) (execDiv r m s) :=
  yields_bind fun _ _ => yields_bind fun _ _ => yields_next (setQuotient_runAfter may ..)

theorem execLdd_runAfter (fd : FDesignator) : Yields (RunAfter i s) (execLdd fd m s) :=
  yields_bind fun _ _ => yields_bind fun _ _ => yields_run_kept

theorem execStd_runAfter (fd : FDesignator) : Yields (RunAfter i s) (execStd fd m s) :=
  yields_bind fun _ _ => yields_bind fun _ stored => yields_run_kept (by simp [store2_run stored])

theorem floatMemory_runAfter (op : ArithOp) (p : Precision) (f : FReg) :
    Yields (RunAfter i s) (floatMemory op p f m s) :=
  yields_bind fun _ _ => yields_bind fun _ _ => yields_run_kept

end Memory

/-! ### Inter-register and argument instructions -/

section Register

variable {i : Instr} (dr sra srb : Reg) (s : State)

theorem execStop_runAfter (code : BitVec 18) :
    Yields (RunAfter (.stop code) s) (execStop code s) :=
  yields_next (.stop code rfl rfl)

theorem setReg_next_runAfter (v : Word) : Yields (RunAfter i s) (.next (s.setReg dr v).next) :=
  yields_run_kept

theorem registerIO_runAfter (write : Bool) (e : ExtReg) :
    Yields (RunAfter i s) (registerIO write dr sra e s) := by
  cases write with
  | false => exact setReg_next_runAfter ..
  | true => exact yields_run_kept

theorem shiftDouble_runAfter (l r : Bool) (sm : ShiftMode) (dfd srad : FDesignator)
    (sc : BitVec 6) : Yields (RunAfter i s) (shiftDouble l r sm dfd srad sc s) :=
  yields_run_kept

theorem bitSkip_runAfter (b : Bool) (bn : BitVec 5) :
    Yields (RunAfter i s) (bitSkip b dr sra bn s) :=
  yields_run_kept

theorem toInteger_runAfter (p : Precision) (round : Bool) (f : FReg) :
    Yields (RunAfter i s) (toInteger p round dr f s) :=
  yields_run_kept

theorem execFlod_runAfter (f : FReg) : Yields (RunAfter i s) (execFlod f sra s) :=
  yields_run_kept

theorem addSubCarry_runAfter (sc ac subtract : Bool) (may : integerArithmetic i = true) :
    Yields (RunAfter i s) (addSubCarry sc ac subtract dr sra srb s) :=
  yields_next (runAfter_overflowCall may _)

theorem mulDiv_runAfter (divide : Bool) (may : integerArithmetic i = true) :
    Yields (RunAfter i s) (mulDiv divide dr sra srb s) := by
  cases divide with
  | false => exact yields_next (setProduct_runAfter may ..)
  | true => exact yields_next (setQuotient_runAfter may ..)

theorem floatRegister_runAfter (op : ArithOp) (p : Precision) (df : FReg) (x y : FDesignator) :
    Yields (RunAfter i s) (floatRegister op p df x y s) :=
  yields_run_kept

theorem integerSkip_runAfter (rl : Relation) (subtract : Bool) (may : integerArithmetic i = true) :
    Yields (RunAfter i s) (integerSkip rl subtract dr sra srb s) :=
  yields_next (runAfter_overflowCall may _)

theorem floatSkip_runAfter (rl : Relation) (subtract : Bool) (p : Precision) (df : FReg)
    (x y : FDesignator) : Yields (RunAfter i s) (floatSkip rl subtract p df x y s) :=
  yields_run_kept

/-- SETA is no integer arithmetic: the argument is in range, so it never calls the monitor (42_argument.md
R306). -/
theorem execSeta_runAfter (x : BitVec 16) : Yields (RunAfter i s) (execSeta dr x s) := by
  obtain ⟨_, _, _, _, keeps⟩ := setInt_result s dr x.toNat
  exact yields_run_kept (keeps fun calls => not_outOfRange_argument x calls.1)

theorem directArith_runAfter (af : DirectArith) (x : BitVec 16) (may : integerArithmetic i = true) :
    Yields (RunAfter i s) (directArith af dr x s) :=
  yields_next (setInt_runAfter may ..)

theorem directSkip_runAfter (cm : Bool) (rl : Relation) (x : BitVec 16) :
    Yields (RunAfter i s) (directSkip cm rl dr x s) :=
  yields_run_kept

end Register

/-! ### Every instruction -/

/-- Each instruction other than EXC has one of the meanings above; those that call the monitor on an
overflow are integer arithmetic. -/
theorem exec_runAfter (i : Instr) (s : State) (h : isExc i = false) :
    Yields (RunAfter i s) (exec i s) := by
  cases i
  case exc => cases h
  case rtj => exact execRtj_runAfter ..
  case min => exact execMin_runAfter _ _ _ rfl
  case crg | crl | cre | crd => exact compareSkip_runAfter ..
  case jrp | jrn | jrz | jrf => exact jumpOn_runAfter ..
  case jpm | jnm | jzm | jfm => exact modifyJump_runAfter _ _ _ _ rfl
  case add => exact execAdd_runAfter _ _ _ rfl
  case sub => exact execSub_runAfter _ _ _ rfl
  case and => exact execAnd_runAfter ..
  case ldr => exact execLdr_runAfter ..
  case adm => exact execAdm_runAfter _ _ _ rfl
  case xmr => exact execXmr_runAfter ..
  case str => exact execStr_runAfter ..
  case mpy => exact execMpy_runAfter _ _ _ rfl
  case div => exact execDiv_runAfter _ _ _ rfl
  case ldd => exact execLdd_runAfter ..
  case std => exact execStd_runAfter ..
  case fad | fadd | fsb | fsbd | fmu | fmud | fdv | fdvd => exact floatMemory_runAfter ..
  case fc21 | rfc11 => exact yields_refused _
  case stop => exact execStop_runAfter ..
  case rio => exact registerIO_runAfter ..
  case rin _ unused _ => exact registerIO_runAfter (sra := unused) (write := false) ..
  case rout unused _ _ => exact registerIO_runAfter (dr := unused) (write := true) ..
  case shr | slr | srr | sla | sra | sll | srl => exact setReg_next_runAfter ..
  case shd | slrd | srrd | slad | srad | slld | srld => exact shiftDouble_runAfter ..
  case bst | bcm | bcl => exact setReg_next_runAfter ..
  case bsz | bso => exact bitSkip_runAfter ..
  case fix | fir | fixd | fird => exact toInteger_runAfter ..
  case flo => exact setReg_next_runAfter ..
  case flod => exact execFlod_runAfter ..
  case lro | szr | rnd | rnda | rndb | rxo | rxoa | rxob | ror | rora | rorb =>
    exact setReg_next_runAfter ..
  case iroAddSub | rad | rsb => exact addSubCarry_runAfter _ _ _ _ _ _ _ rfl
  case iroMulDiv => exact mulDiv_runAfter _ _ _ _ _ rfl
  case rmu => exact mulDiv_runAfter _ _ _ _ false rfl
  case rdv => exact mulDiv_runAfter _ _ _ _ true rfl
  case fro | raf | rsf | rmf | rdf | rafd | rsfd | rmfd | rdfd => exact floatRegister_runAfter ..
  case irs | sgr | asg | sle | asl | seq | ase | sue | asu =>
    exact integerSkip_runAfter _ _ _ _ _ _ rfl
  case frs | sgf | asgf | slf | aslf | sef | asef | suf | asuf | sgd | agfd | sld | alfd | sed
      | aefd | sud | aufd => exact floatSkip_runAfter ..
  case dlr | dlrClear | xora | anda | ora => exact setReg_next_runAfter ..
  case seta => exact execSeta_runAfter ..
  case dar | seca | adda | adca => exact directArith_runAfter _ _ _ _ rfl
  case dsk | ddp | ddn | ddz | ddf | dsp | dsn | dsz | dsf => exact directSkip_runAfter ..

/-- An instruction counts as itself, or it is an EXC. -/
theorem executed_eq_or_isExc (i : Instr) (s : State) : executed i s = i ∨ isExc i = true := by
  cases isexc : isExc i with
  | false => exact .inl (executed_of_not_exc isexc s)
  | true => exact .inr rfl

/-! ## Steps that execute nothing -/

theorem step_of_stopped {s : State} {c : StopCause} (stopped : s.run = .stopped c) :
    step s = .next s := by
  simp only [step, stopped]

theorem step_of_undefined {s : State} {w : Word} {u : Undefined} (running : s.run = .running)
    (fetched : s.fetch = .ok w) (undefined : decodeWord w = .error u) :
    step s = .refused (.undefinedWord u) := by
  simp only [step, running, fetched, undefined]

theorem step_of_fetch_error {s : State} {e : Halt} (running : s.run = .running)
    (fails : s.fetch = .error e) : step s = deliver (.error e) := by
  simp only [step, running, fails]

/-- With no word of P buffered the fetch goes to memory (20_memory.md R75). -/
theorem fetch_eq_load {s : State} (unbuffered : ∀ b, s.nib = some b → b.addr ≠ s.pc) :
    s.fetch = s.load .fetch s.pc := by
  unfold State.fetch
  split
  · next b buffered => exact if_neg (unbuffered b buffered)
  · rfl

/-! ## The obligations -/

/-- Settles O59, from the run state after the instruction that `i` counts as, with its word in IR. -/
theorem runState : Obligations.RunState := by
  intro i s t ht
  obtain ⟨noExc, w, runs⟩ := exec_next_executed ht
  have counts := executed_eq_or_isExc i s
  cases (exec_runAfter _ _ noExc).of_next t runs with
  | kept run => exact .inl run
  | stop code stops run => exact .inr (.inl ⟨code, counts.imp_left (·.symm.trans stops), run⟩)
  | overflow may action run =>
    exact .inr (.inr ⟨counts.imp_left fun (same : executed i s = i) => same ▸ may, action, run⟩)

/-- Settles O12: the stopped CPU, the undefined word, and the fetch that the memory bound stops. -/
theorem stepStops : Obligations.StepStops := by
  refine fun s => ⟨fun c => step_of_stopped, fun w u => step_of_undefined,
    fun running unbuffered outside => ?_⟩
  have fails := (fetch_eq_load unbuffered).trans (load_outside .fetch outside)
  exact step_of_fetch_error running fails

end Sys2Proof.Machine
end

section
/-! PROOFS. How a program comes to stand where the machine fetches (70_reset_and_hazards.md R401,
20_memory.md R75): the word stored at P is the word fetched, and the decoder reads a table word as it
reads a fetched one. -/

namespace Sys2Proof

/-! ## Table words -/

theorem decode_wordBytes (w : Word) : decode (wordBytes w) = (decodeWord w).map (·, []) := by
  rw [wordBytes, decode, Machine.wordOfBytes_extract]
  cases decodeWord w <;> rfl

/-- A table word is decoded from its `nbits` low bits, as a fetched word. -/
theorem decodeTableWord_eq_some_iff {nbits w : Nat} {i : Instr} :
    decodeTableWord nbits w = some i ↔ decodeWord (BitVec.ofNat 32 (w % 2 ^ nbits)) = .ok i := by
  rw [decodeTableWord, decode_wordBytes]
  cases decodeWord (BitVec.ofNat 32 (w % 2 ^ nbits)) <;> simp [Except.map]

end Sys2Proof

namespace Sys2Proof.Machine

/-! ## The state with a word to fetch -/

@[simp] theorem withFetchWord_run (s : State) (nbits w : Nat) :
    (s.withFetchWord nbits w).run = .running := rfl

@[simp] theorem withFetchWord_nib (s : State) (nbits w : Nat) :
    (s.withFetchWord nbits w).nib = none := rfl

@[simp] theorem withFetchWord_pc (s : State) (nbits w : Nat) :
    (s.withFetchWord nbits w).pc = s.pc := rfl

@[simp] theorem withFetchWord_params (s : State) (nbits w : Nat) :
    (s.withFetchWord nbits w).params = s.params := rfl

@[simp] theorem withFetchWord_mem (s : State) (nbits w : Nat) :
    (s.withFetchWord nbits w).mem =
      s.mem.writeWord s.pc.toNat (BitVec.ofNat 32 (w % 2 ^ nbits)) := rfl

/-- With no word buffered the fetch reads memory at P, where the word was stored. -/
theorem fetch_withFetchWord {s : State} (nbits w : Nat) (canonical : s.mem.wf = true)
    (inside : s.pc.toNat < s.params.memWords) :
    (s.withFetchWord nbits w).fetch = .ok (BitVec.ofNat 32 (w % 2 ^ nbits)) := by
  have unbuffered : ∀ b, (s.withFetchWord nbits w).nib = some b →
      b.addr ≠ (s.withFetchWord nbits w).pc := by simp
  have reached : (s.withFetchWord nbits w).pc.toNat < (s.withFetchWord nbits w).params.memWords := by
    simpa using inside
  rw [fetch_eq_load unbuffered, load_inside .fetch reached, withFetchWord_mem, withFetchWord_pc,
    readWord_writeWord_self _ _ canonical]

/-! ## The obligation -/

/-- Settles O13: the stored word is fetched, and it decodes as the table word does. -/
theorem fetchWordRuns : Obligations.FetchWordRuns := fun _ nbits w _ canonical inside decoded =>
  step_of_fetch (withFetchWord_run ..) (fetch_withFetchWord nbits w canonical inside)
    (decodeTableWord_eq_some_iff.mp decoded)

end Sys2Proof.Machine
end
